-- ==== Sys2Proof/Word.lean ====
section
/-! DEFINITION. The two widths of the 6809 (spec/10_state.md R20): an 8-bit byte and a 16-bit word. -/

namespace Sys2Proof

/-- An 8-bit value: A, B, CC, DP, one byte of memory (R20, R40). -/
abbrev Byte := BitVec 8

/-- A 16-bit value: X, Y, U, S, D, PC, an address (R20, R40). -/
abbrev Word := BitVec 16

end Sys2Proof
end

