-- ==== Sys2Proof/Config.lean ====
section
/-! DEFINITION. What the spec leaves without a value: the constants of the model that have no body. -/

namespace Sys2Proof

/-- The half carry of the `n`-th instruction whose H cell is "8" ("Value of half carry flag is undefined",
spec/00_scope.md R13, spec/92_eei_decisions.md D2): any value, fresh each time. FREE VALUE, log 6. -/
opaque Config.freeHalfCarry : Nat → Bool

end Sys2Proof
end

