-- ==== Sys2Proof/Machine/Bits.lean ====
section
/-! DEFINITION. Byte order, halves and extension of values (spec/00_scope.md R4, R6; spec/20_memory.md R42). -/

namespace Sys2Proof

/-- Bits 15:8 of a 16-bit value (R4). -/
def hiByte (v : Word) : Byte := v.extractLsb' 8 8

/-- Bits 7:0 of a 16-bit value (R4). -/
def loByte (v : Word) : Byte := v.extractLsb' 0 8

/-- The concatenation `h:l`, the left part the more significant (R4, R42). -/
def join (h l : Byte) : Word := h ++ l

/-- `zext_16` of a byte (R6). -/
def zext8 (v : Byte) : Word := v.setWidth 16

/-- `sext_16` of a byte (R6). -/
def sext8 (v : Byte) : Word := v.signExtend 16

/-- `sext_16` of the 5-bit offset of an indexed postbyte (R6, R69). -/
def sext5 (v : BitVec 5) : Word := v.signExtend 16

end Sys2Proof
end

