-- ==== Sys2Proof/Syntax.lean ====
section
/-! DEFINITION. The instructions of the 6809 as syntax: the operand forms of spec/30_encoding.md and one constructor for
each mnemonic of spec/opcode_table.json. A row of the table is a (mnemonic, addressing mode) cell (R93): the mnemonic is
the constructor and the addressing mode is the form of its operand, so every row is one constructor with one form. -/

namespace Sys2Proof

/-- The registers RR of an indexed postbyte can name (R68): 00 X, 01 Y, 10 U, 11 S. -/
inductive IndexReg where
  | x | y | u | s
  deriving DecidableEq, Repr

/-- The indexed operand forms, one for each defined row of the postbyte table of R68. `ind` is the indirect bit (R79);
the forms without it cannot be indirect (R69, R75, R76, R80). -/
inductive Indexed where
  /-- `n5,R`: 5-bit signed offset (R69). -/
  | offset5 (r : IndexReg) (o : BitVec 5)
  /-- `,R+`: post-increment by 1, never indirect (R75, R80). -/
  | postInc1 (r : IndexReg)
  /-- `,R++` or `[,R++]`: post-increment by 2 (R75). -/
  | postInc2 (r : IndexReg) (ind : Bool)
  /-- `,-R`: pre-decrement by 1, never indirect (R76, R80). -/
  | preDec1 (r : IndexReg)
  /-- `,--R` or `[,--R]`: pre-decrement by 2 (R76). -/
  | preDec2 (r : IndexReg) (ind : Bool)
  /-- `,R` or `[,R]`: no offset (R70). -/
  | noOffset (r : IndexReg) (ind : Bool)
  /-- `B,R` or `[B,R]`: accumulator B as signed offset (R73). -/
  | accB (r : IndexReg) (ind : Bool)
  /-- `A,R` or `[A,R]`: accumulator A as signed offset (R73). -/
  | accA (r : IndexReg) (ind : Bool)
  /-- `n8,R` or `[n8,R]`: 8-bit signed offset (R71). -/
  | offset8 (r : IndexReg) (o : Byte) (ind : Bool)
  /-- `n16,R` or `[n16,R]`: 16-bit offset (R72). -/
  | offset16 (r : IndexReg) (o : Word) (ind : Bool)
  /-- `D,R` or `[D,R]`: D as offset (R74). -/
  | accD (r : IndexReg) (ind : Bool)
  /-- `n8,PCR` or `[n8,PCR]` (R77); `rr` is the field the mode ignores. -/
  | pcr8 (rr : IndexReg) (o : Byte) (ind : Bool)
  /-- `n16,PCR` or `[n16,PCR]` (R77); `rr` is the field the mode ignores. -/
  | pcr16 (rr : IndexReg) (o : Word) (ind : Bool)
  /-- `[n16]`: extended indirect (R78). -/
  | extIndirect (a : Word)
  deriving DecidableEq, Repr

/-- A memory operand: direct (R66), indexed (R68) or extended (R67). -/
inductive MemOperand where
  | direct (a : Byte)
  | indexed (m : Indexed)
  | extended (a : Word)
  deriving DecidableEq, Repr

/-- An 8-bit source operand: immediate (R64) or in memory (R65). -/
inductive Src8 where
  | imm (v : Byte)
  | mem (m : MemOperand)
  deriving DecidableEq, Repr

/-- A 16-bit source operand: immediate (R64) or in memory (R65). -/
inductive Src16 where
  | imm (v : Word)
  | mem (m : MemOperand)
  deriving DecidableEq, Repr

/-- The 8-bit registers TFR and EXG can name (R83; note 2). -/
inductive Reg8 where
  | a | b | cc | dp
  deriving DecidableEq, Repr

/-- The 16-bit registers TFR and EXG can name (R83; note 2). -/
inductive Reg16 where
  | d | x | y | u | s | pc
  deriving DecidableEq, Repr

/-- A register of a TFR or EXG pair, of either width (R83). -/
inductive Reg where
  | r8 (r : Reg8)
  | r16 (r : Reg16)
  deriving DecidableEq, Repr

/-- The register list of PSHS, PSHU, PULS, PULU, bit 7 down to bit 0 (R84). `other` is the stack pointer that the
instruction does not itself use: U for PSHS and PULS, S for PSHU and PULU. -/
structure RegList where
  pc : Bool
  other : Bool
  y : Bool
  x : Bool
  dp : Bool
  b : Bool
  a : Bool
  cc : Bool
  deriving DecidableEq, Repr

/-- The three opcode pages (R61, R85): no prefix byte, $10, $11. -/
inductive Page where
  | page1 | page2 | page3
  deriving DecidableEq, Repr

/-- What `raise Undefined(what)` names (R6): an encoding to which the spec gives no meaning. -/
inductive Undefined where
  /-- An opcode without a row on its page, a second page byte among them (R88, R89). -/
  | opcode (page : Page) (op : Byte)
  /-- An indexed postbyte without a meaning (R80). -/
  | indexedPostbyte (pb : Byte)
  /-- A TFR or EXG postbyte with an undefined code or two widths (R83). -/
  | registerPair (pb : Byte)
  deriving DecidableEq, Repr

/-- The instructions: one constructor for each mnemonic of spec/opcode_table.json, in the table's order, each with the
rule that gives its meaning. The seven second names (LSLA, LSLB, LSL, BHS, LBHS, BLO, LBLO; R91) are constructors of
their own, which the decoder never gives. -/
inductive Instr where
  /-- ABX (R100). -/
  | abx
  /-- ADCA (R101). -/
  | adca (src : Src8)
  /-- ADCB (R102). -/
  | adcb (src : Src8)
  /-- ADDA (R103). -/
  | adda (src : Src8)
  /-- ADDB (R104). -/
  | addb (src : Src8)
  /-- ADDD (R105). -/
  | addd (src : Src16)
  /-- ANDA (R106). -/
  | anda (src : Src8)
  /-- ANDB (R107). -/
  | andb (src : Src8)
  /-- ANDCC (R108). -/
  | andcc (m : Byte)
  /-- ASLA (R109). -/
  | asla
  /-- ASLB (R110). -/
  | aslb
  /-- ASL (R111). -/
  | asl (m : MemOperand)
  /-- ASRA (R112). -/
  | asra
  /-- ASRB (R113). -/
  | asrb
  /-- ASR (R114). -/
  | asr (m : MemOperand)
  /-- BITA (R115). -/
  | bita (src : Src8)
  /-- BITB (R116). -/
  | bitb (src : Src8)
  /-- CLRA (R117). -/
  | clra
  /-- CLRB (R118). -/
  | clrb
  /-- CLR (R119). -/
  | clr (m : MemOperand)
  /-- CMPA (R120). -/
  | cmpa (src : Src8)
  /-- CMPB (R121). -/
  | cmpb (src : Src8)
  /-- CMPD (R122). -/
  | cmpd (src : Src16)
  /-- CMPS (R123). -/
  | cmps (src : Src16)
  /-- CMPU (R124). -/
  | cmpu (src : Src16)
  /-- CMPX (R125). -/
  | cmpx (src : Src16)
  /-- CMPY (R126). -/
  | cmpy (src : Src16)
  /-- COMA (R127). -/
  | coma
  /-- COMB (R128). -/
  | comb
  /-- COM (R129). -/
  | com (m : MemOperand)
  /-- CWAI (R130). -/
  | cwai (m : Byte)
  /-- DAA (R131). -/
  | daa
  /-- DECA (R132). -/
  | deca
  /-- DECB (R133). -/
  | decb
  /-- DEC (R134). -/
  | dec (m : MemOperand)
  /-- EORA (R140). -/
  | eora (src : Src8)
  /-- EORB (R141). -/
  | eorb (src : Src8)
  /-- EXG (R142). -/
  | exg (r1 r2 : Reg)
  /-- INCA (R143). -/
  | inca
  /-- INCB (R144). -/
  | incb
  /-- INC (R145). -/
  | inc (m : MemOperand)
  /-- JMP (R146). -/
  | jmp (m : MemOperand)
  /-- JSR (R147). -/
  | jsr (m : MemOperand)
  /-- LDA (R160). -/
  | lda (src : Src8)
  /-- LDB (R161). -/
  | ldb (src : Src8)
  /-- LDD (R162). -/
  | ldd (src : Src16)
  /-- LDS (R163). -/
  | lds (src : Src16)
  /-- LDU (R164). -/
  | ldu (src : Src16)
  /-- LDX (R165). -/
  | ldx (src : Src16)
  /-- LDY (R166). -/
  | ldy (src : Src16)
  /-- LEAS (R167). -/
  | leas (m : Indexed)
  /-- LEAU (R168). -/
  | leau (m : Indexed)
  /-- LEAX (R169). -/
  | leax (m : Indexed)
  /-- LEAY (R170). -/
  | leay (m : Indexed)
  /-- LSLA, second name of ASLA (R171). -/
  | lsla
  /-- LSLB, second name of ASLB (R172). -/
  | lslb
  /-- LSL, second name of ASL (R173). -/
  | lsl (m : MemOperand)
  /-- LSRA (R174). -/
  | lsra
  /-- LSRB (R175). -/
  | lsrb
  /-- LSR (R176). -/
  | lsr (m : MemOperand)
  /-- MUL (R177). -/
  | mul
  /-- NEGA (R178). -/
  | nega
  /-- NEGB (R179). -/
  | negb
  /-- NEG (R180). -/
  | neg (m : MemOperand)
  /-- NOP (R181). -/
  | nop
  /-- ORA (R182). -/
  | ora (src : Src8)
  /-- ORB (R183). -/
  | orb (src : Src8)
  /-- ORCC (R184). -/
  | orcc (m : Byte)
  /-- PSHS (R185). -/
  | pshs (l : RegList)
  /-- PSHU (R186). -/
  | pshu (l : RegList)
  /-- PULS (R200). -/
  | puls (l : RegList)
  /-- PULU (R201). -/
  | pulu (l : RegList)
  /-- ROLA (R202). -/
  | rola
  /-- ROLB (R203). -/
  | rolb
  /-- ROL (R204). -/
  | rol (m : MemOperand)
  /-- RORA (R205). -/
  | rora
  /-- RORB (R206). -/
  | rorb
  /-- ROR (R207). -/
  | ror (m : MemOperand)
  /-- RTI (R208). -/
  | rti
  /-- RTS (R209). -/
  | rts
  /-- SBCA (R210). -/
  | sbca (src : Src8)
  /-- SBCB (R211). -/
  | sbcb (src : Src8)
  /-- SEX (R212). -/
  | sex
  /-- STA (R213). -/
  | sta (m : MemOperand)
  /-- STB (R214). -/
  | stb (m : MemOperand)
  /-- STD (R215). -/
  | std (m : MemOperand)
  /-- STS (R216). -/
  | sts (m : MemOperand)
  /-- STU (R217). -/
  | stu (m : MemOperand)
  /-- STX (R218). -/
  | stx (m : MemOperand)
  /-- STY (R219). -/
  | sty (m : MemOperand)
  /-- SUBA (R220). -/
  | suba (src : Src8)
  /-- SUBB (R221). -/
  | subb (src : Src8)
  /-- SUBD (R222). -/
  | subd (src : Src16)
  /-- SWI (R223). -/
  | swi
  /-- SWI2 (R224). -/
  | swi2
  /-- SWI3 (R225). -/
  | swi3
  /-- SYNC (R226). -/
  | sync
  /-- TFR (R227). -/
  | tfr (r1 r2 : Reg)
  /-- TSTA (R228). -/
  | tsta
  /-- TSTB (R229). -/
  | tstb
  /-- TST (R230). -/
  | tst (m : MemOperand)
  /-- BCC (R251). -/
  | bcc (o : Byte)
  /-- LBCC (R252). -/
  | lbcc (o : Word)
  /-- BCS (R253). -/
  | bcs (o : Byte)
  /-- LBCS (R254). -/
  | lbcs (o : Word)
  /-- BEQ (R255). -/
  | beq (o : Byte)
  /-- LBEQ (R256). -/
  | lbeq (o : Word)
  /-- BGE (R257). -/
  | bge (o : Byte)
  /-- LBGE (R258). -/
  | lbge (o : Word)
  /-- BGT (R259). -/
  | bgt (o : Byte)
  /-- LBGT (R260). -/
  | lbgt (o : Word)
  /-- BHI (R261). -/
  | bhi (o : Byte)
  /-- LBHI (R262). -/
  | lbhi (o : Word)
  /-- BHS, second name of BCC (R263). -/
  | bhs (o : Byte)
  /-- LBHS, second name of LBCC (R264). -/
  | lbhs (o : Word)
  /-- BLE (R265). -/
  | ble (o : Byte)
  /-- LBLE (R266). -/
  | lble (o : Word)
  /-- BLO, second name of BCS (R267). -/
  | blo (o : Byte)
  /-- LBLO, second name of LBCS (R268). -/
  | lblo (o : Word)
  /-- BLS (R269). -/
  | bls (o : Byte)
  /-- LBLS (R270). -/
  | lbls (o : Word)
  /-- BLT (R271). -/
  | blt (o : Byte)
  /-- LBLT (R272). -/
  | lblt (o : Word)
  /-- BMI (R273). -/
  | bmi (o : Byte)
  /-- LBMI (R274). -/
  | lbmi (o : Word)
  /-- BNE (R275). -/
  | bne (o : Byte)
  /-- LBNE (R276). -/
  | lbne (o : Word)
  /-- BPL (R277). -/
  | bpl (o : Byte)
  /-- LBPL (R278). -/
  | lbpl (o : Word)
  /-- BRA (R279). -/
  | bra (o : Byte)
  /-- LBRA (R280). -/
  | lbra (o : Word)
  /-- BRN (R281). -/
  | brn (o : Byte)
  /-- LBRN (R282). -/
  | lbrn (o : Word)
  /-- BSR (R283). -/
  | bsr (o : Byte)
  /-- LBSR (R284). -/
  | lbsr (o : Word)
  /-- BVC (R285). -/
  | bvc (o : Byte)
  /-- LBVC (R286). -/
  | lbvc (o : Word)
  /-- BVS (R287). -/
  | bvs (o : Byte)
  /-- LBVS (R288). -/
  | lbvs (o : Word)
  deriving DecidableEq, Repr

end Sys2Proof
end

