-- ==== Sys2Proof/Decode.lean ====
section
/-! DEFINITION. The decoder and the encoder (spec/30_encoding.md). The decoder reads an instruction byte by byte, as
R85 says, from a function that gives its `k`-th byte; it reads no byte past the instruction. -/

namespace Sys2Proof

/-! ### The opcode maps -/

/-- What follows an opcode, and the instruction it makes (the `format` of R85). -/
inductive Template where
  /-- Nothing follows (R63). -/
  | inherent (i : Instr)
  /-- One byte: an 8-bit immediate (R64) or an 8-bit branch offset (R82). -/
  | imm8 (f : Byte → Instr)
  /-- Two bytes, high first: a 16-bit immediate (R64) or a 16-bit branch offset (R82). -/
  | imm16 (f : Word → Instr)
  /-- One byte, the low half of a direct address (R66). -/
  | direct (f : MemOperand → Instr)
  /-- A postbyte and what it calls for, as a memory operand (R68). -/
  | indexedMem (f : MemOperand → Instr)
  /-- Two bytes, an extended address (R67). -/
  | extended (f : MemOperand → Instr)
  /-- A postbyte and what it calls for, of an instruction whose only mode is indexed (R68). -/
  | indexed (f : Indexed → Instr)
  /-- A register pair postbyte (R83). -/
  | regPair (f : Reg → Reg → Instr)
  /-- A register list postbyte (R84). -/
  | regList (f : RegList → Instr)

/-- One defined opcode of a page. -/
structure Row where
  op : Byte
  form : Template

/-- Opcodes $00 to $1F of page 1 (R86). -/
def page1Rows01 : List Row :=
  [⟨0x00#8, .direct .neg⟩,
   ⟨0x03#8, .direct .com⟩,
   ⟨0x04#8, .direct .lsr⟩,
   ⟨0x06#8, .direct .ror⟩,
   ⟨0x07#8, .direct .asr⟩,
   ⟨0x08#8, .direct .asl⟩,
   ⟨0x09#8, .direct .rol⟩,
   ⟨0x0A#8, .direct .dec⟩,
   ⟨0x0C#8, .direct .inc⟩,
   ⟨0x0D#8, .direct .tst⟩,
   ⟨0x0E#8, .direct .jmp⟩,
   ⟨0x0F#8, .direct .clr⟩,
   ⟨0x12#8, .inherent .nop⟩,
   ⟨0x13#8, .inherent .sync⟩,
   ⟨0x16#8, .imm16 .lbra⟩,
   ⟨0x17#8, .imm16 .lbsr⟩,
   ⟨0x19#8, .inherent .daa⟩,
   ⟨0x1A#8, .imm8 .orcc⟩,
   ⟨0x1C#8, .imm8 .andcc⟩,
   ⟨0x1D#8, .inherent .sex⟩,
   ⟨0x1E#8, .regPair .exg⟩,
   ⟨0x1F#8, .regPair .tfr⟩]

/-- Opcodes $20 to $3F of page 1 (R86). -/
def page1Rows23 : List Row :=
  [⟨0x20#8, .imm8 .bra⟩,
   ⟨0x21#8, .imm8 .brn⟩,
   ⟨0x22#8, .imm8 .bhi⟩,
   ⟨0x23#8, .imm8 .bls⟩,
   ⟨0x24#8, .imm8 .bcc⟩,
   ⟨0x25#8, .imm8 .bcs⟩,
   ⟨0x26#8, .imm8 .bne⟩,
   ⟨0x27#8, .imm8 .beq⟩,
   ⟨0x28#8, .imm8 .bvc⟩,
   ⟨0x29#8, .imm8 .bvs⟩,
   ⟨0x2A#8, .imm8 .bpl⟩,
   ⟨0x2B#8, .imm8 .bmi⟩,
   ⟨0x2C#8, .imm8 .bge⟩,
   ⟨0x2D#8, .imm8 .blt⟩,
   ⟨0x2E#8, .imm8 .bgt⟩,
   ⟨0x2F#8, .imm8 .ble⟩,
   ⟨0x30#8, .indexed .leax⟩,
   ⟨0x31#8, .indexed .leay⟩,
   ⟨0x32#8, .indexed .leas⟩,
   ⟨0x33#8, .indexed .leau⟩,
   ⟨0x34#8, .regList .pshs⟩,
   ⟨0x35#8, .regList .puls⟩,
   ⟨0x36#8, .regList .pshu⟩,
   ⟨0x37#8, .regList .pulu⟩,
   ⟨0x39#8, .inherent .rts⟩,
   ⟨0x3A#8, .inherent .abx⟩,
   ⟨0x3B#8, .inherent .rti⟩,
   ⟨0x3C#8, .imm8 .cwai⟩,
   ⟨0x3D#8, .inherent .mul⟩,
   ⟨0x3F#8, .inherent .swi⟩]

/-- Opcodes $40 to $5F of page 1 (R86). -/
def page1Rows45 : List Row :=
  [⟨0x40#8, .inherent .nega⟩,
   ⟨0x43#8, .inherent .coma⟩,
   ⟨0x44#8, .inherent .lsra⟩,
   ⟨0x46#8, .inherent .rora⟩,
   ⟨0x47#8, .inherent .asra⟩,
   ⟨0x48#8, .inherent .asla⟩,
   ⟨0x49#8, .inherent .rola⟩,
   ⟨0x4A#8, .inherent .deca⟩,
   ⟨0x4C#8, .inherent .inca⟩,
   ⟨0x4D#8, .inherent .tsta⟩,
   ⟨0x4F#8, .inherent .clra⟩,
   ⟨0x50#8, .inherent .negb⟩,
   ⟨0x53#8, .inherent .comb⟩,
   ⟨0x54#8, .inherent .lsrb⟩,
   ⟨0x56#8, .inherent .rorb⟩,
   ⟨0x57#8, .inherent .asrb⟩,
   ⟨0x58#8, .inherent .aslb⟩,
   ⟨0x59#8, .inherent .rolb⟩,
   ⟨0x5A#8, .inherent .decb⟩,
   ⟨0x5C#8, .inherent .incb⟩,
   ⟨0x5D#8, .inherent .tstb⟩,
   ⟨0x5F#8, .inherent .clrb⟩]

/-- Opcodes $60 to $7F of page 1 (R86). -/
def page1Rows67 : List Row :=
  [⟨0x60#8, .indexedMem .neg⟩,
   ⟨0x63#8, .indexedMem .com⟩,
   ⟨0x64#8, .indexedMem .lsr⟩,
   ⟨0x66#8, .indexedMem .ror⟩,
   ⟨0x67#8, .indexedMem .asr⟩,
   ⟨0x68#8, .indexedMem .asl⟩,
   ⟨0x69#8, .indexedMem .rol⟩,
   ⟨0x6A#8, .indexedMem .dec⟩,
   ⟨0x6C#8, .indexedMem .inc⟩,
   ⟨0x6D#8, .indexedMem .tst⟩,
   ⟨0x6E#8, .indexedMem .jmp⟩,
   ⟨0x6F#8, .indexedMem .clr⟩,
   ⟨0x70#8, .extended .neg⟩,
   ⟨0x73#8, .extended .com⟩,
   ⟨0x74#8, .extended .lsr⟩,
   ⟨0x76#8, .extended .ror⟩,
   ⟨0x77#8, .extended .asr⟩,
   ⟨0x78#8, .extended .asl⟩,
   ⟨0x79#8, .extended .rol⟩,
   ⟨0x7A#8, .extended .dec⟩,
   ⟨0x7C#8, .extended .inc⟩,
   ⟨0x7D#8, .extended .tst⟩,
   ⟨0x7E#8, .extended .jmp⟩,
   ⟨0x7F#8, .extended .clr⟩]

/-- Opcodes $80 to $9F of page 1 (R86). -/
def page1Rows89 : List Row :=
  [⟨0x80#8, .imm8 (fun v => .suba (.imm v))⟩,
   ⟨0x81#8, .imm8 (fun v => .cmpa (.imm v))⟩,
   ⟨0x82#8, .imm8 (fun v => .sbca (.imm v))⟩,
   ⟨0x83#8, .imm16 (fun v => .subd (.imm v))⟩,
   ⟨0x84#8, .imm8 (fun v => .anda (.imm v))⟩,
   ⟨0x85#8, .imm8 (fun v => .bita (.imm v))⟩,
   ⟨0x86#8, .imm8 (fun v => .lda (.imm v))⟩,
   ⟨0x88#8, .imm8 (fun v => .eora (.imm v))⟩,
   ⟨0x89#8, .imm8 (fun v => .adca (.imm v))⟩,
   ⟨0x8A#8, .imm8 (fun v => .ora (.imm v))⟩,
   ⟨0x8B#8, .imm8 (fun v => .adda (.imm v))⟩,
   ⟨0x8C#8, .imm16 (fun v => .cmpx (.imm v))⟩,
   ⟨0x8D#8, .imm8 .bsr⟩,
   ⟨0x8E#8, .imm16 (fun v => .ldx (.imm v))⟩,
   ⟨0x90#8, .direct (fun v => .suba (.mem v))⟩,
   ⟨0x91#8, .direct (fun v => .cmpa (.mem v))⟩,
   ⟨0x92#8, .direct (fun v => .sbca (.mem v))⟩,
   ⟨0x93#8, .direct (fun v => .subd (.mem v))⟩,
   ⟨0x94#8, .direct (fun v => .anda (.mem v))⟩,
   ⟨0x95#8, .direct (fun v => .bita (.mem v))⟩,
   ⟨0x96#8, .direct (fun v => .lda (.mem v))⟩,
   ⟨0x97#8, .direct .sta⟩,
   ⟨0x98#8, .direct (fun v => .eora (.mem v))⟩,
   ⟨0x99#8, .direct (fun v => .adca (.mem v))⟩,
   ⟨0x9A#8, .direct (fun v => .ora (.mem v))⟩,
   ⟨0x9B#8, .direct (fun v => .adda (.mem v))⟩,
   ⟨0x9C#8, .direct (fun v => .cmpx (.mem v))⟩,
   ⟨0x9D#8, .direct .jsr⟩,
   ⟨0x9E#8, .direct (fun v => .ldx (.mem v))⟩,
   ⟨0x9F#8, .direct .stx⟩]

/-- Opcodes $A0 to $BF of page 1 (R86). -/
def page1RowsAB : List Row :=
  [⟨0xA0#8, .indexedMem (fun v => .suba (.mem v))⟩,
   ⟨0xA1#8, .indexedMem (fun v => .cmpa (.mem v))⟩,
   ⟨0xA2#8, .indexedMem (fun v => .sbca (.mem v))⟩,
   ⟨0xA3#8, .indexedMem (fun v => .subd (.mem v))⟩,
   ⟨0xA4#8, .indexedMem (fun v => .anda (.mem v))⟩,
   ⟨0xA5#8, .indexedMem (fun v => .bita (.mem v))⟩,
   ⟨0xA6#8, .indexedMem (fun v => .lda (.mem v))⟩,
   ⟨0xA7#8, .indexedMem .sta⟩,
   ⟨0xA8#8, .indexedMem (fun v => .eora (.mem v))⟩,
   ⟨0xA9#8, .indexedMem (fun v => .adca (.mem v))⟩,
   ⟨0xAA#8, .indexedMem (fun v => .ora (.mem v))⟩,
   ⟨0xAB#8, .indexedMem (fun v => .adda (.mem v))⟩,
   ⟨0xAC#8, .indexedMem (fun v => .cmpx (.mem v))⟩,
   ⟨0xAD#8, .indexedMem .jsr⟩,
   ⟨0xAE#8, .indexedMem (fun v => .ldx (.mem v))⟩,
   ⟨0xAF#8, .indexedMem .stx⟩,
   ⟨0xB0#8, .extended (fun v => .suba (.mem v))⟩,
   ⟨0xB1#8, .extended (fun v => .cmpa (.mem v))⟩,
   ⟨0xB2#8, .extended (fun v => .sbca (.mem v))⟩,
   ⟨0xB3#8, .extended (fun v => .subd (.mem v))⟩,
   ⟨0xB4#8, .extended (fun v => .anda (.mem v))⟩,
   ⟨0xB5#8, .extended (fun v => .bita (.mem v))⟩,
   ⟨0xB6#8, .extended (fun v => .lda (.mem v))⟩,
   ⟨0xB7#8, .extended .sta⟩,
   ⟨0xB8#8, .extended (fun v => .eora (.mem v))⟩,
   ⟨0xB9#8, .extended (fun v => .adca (.mem v))⟩,
   ⟨0xBA#8, .extended (fun v => .ora (.mem v))⟩,
   ⟨0xBB#8, .extended (fun v => .adda (.mem v))⟩,
   ⟨0xBC#8, .extended (fun v => .cmpx (.mem v))⟩,
   ⟨0xBD#8, .extended .jsr⟩,
   ⟨0xBE#8, .extended (fun v => .ldx (.mem v))⟩,
   ⟨0xBF#8, .extended .stx⟩]

/-- Opcodes $C0 to $DF of page 1 (R86). -/
def page1RowsCD : List Row :=
  [⟨0xC0#8, .imm8 (fun v => .subb (.imm v))⟩,
   ⟨0xC1#8, .imm8 (fun v => .cmpb (.imm v))⟩,
   ⟨0xC2#8, .imm8 (fun v => .sbcb (.imm v))⟩,
   ⟨0xC3#8, .imm16 (fun v => .addd (.imm v))⟩,
   ⟨0xC4#8, .imm8 (fun v => .andb (.imm v))⟩,
   ⟨0xC5#8, .imm8 (fun v => .bitb (.imm v))⟩,
   ⟨0xC6#8, .imm8 (fun v => .ldb (.imm v))⟩,
   ⟨0xC8#8, .imm8 (fun v => .eorb (.imm v))⟩,
   ⟨0xC9#8, .imm8 (fun v => .adcb (.imm v))⟩,
   ⟨0xCA#8, .imm8 (fun v => .orb (.imm v))⟩,
   ⟨0xCB#8, .imm8 (fun v => .addb (.imm v))⟩,
   ⟨0xCC#8, .imm16 (fun v => .ldd (.imm v))⟩,
   ⟨0xCE#8, .imm16 (fun v => .ldu (.imm v))⟩,
   ⟨0xD0#8, .direct (fun v => .subb (.mem v))⟩,
   ⟨0xD1#8, .direct (fun v => .cmpb (.mem v))⟩,
   ⟨0xD2#8, .direct (fun v => .sbcb (.mem v))⟩,
   ⟨0xD3#8, .direct (fun v => .addd (.mem v))⟩,
   ⟨0xD4#8, .direct (fun v => .andb (.mem v))⟩,
   ⟨0xD5#8, .direct (fun v => .bitb (.mem v))⟩,
   ⟨0xD6#8, .direct (fun v => .ldb (.mem v))⟩,
   ⟨0xD7#8, .direct .stb⟩,
   ⟨0xD8#8, .direct (fun v => .eorb (.mem v))⟩,
   ⟨0xD9#8, .direct (fun v => .adcb (.mem v))⟩,
   ⟨0xDA#8, .direct (fun v => .orb (.mem v))⟩,
   ⟨0xDB#8, .direct (fun v => .addb (.mem v))⟩,
   ⟨0xDC#8, .direct (fun v => .ldd (.mem v))⟩,
   ⟨0xDD#8, .direct .std⟩,
   ⟨0xDE#8, .direct (fun v => .ldu (.mem v))⟩,
   ⟨0xDF#8, .direct .stu⟩]

/-- Opcodes $E0 to $FF of page 1 (R86). -/
def page1RowsEF : List Row :=
  [⟨0xE0#8, .indexedMem (fun v => .subb (.mem v))⟩,
   ⟨0xE1#8, .indexedMem (fun v => .cmpb (.mem v))⟩,
   ⟨0xE2#8, .indexedMem (fun v => .sbcb (.mem v))⟩,
   ⟨0xE3#8, .indexedMem (fun v => .addd (.mem v))⟩,
   ⟨0xE4#8, .indexedMem (fun v => .andb (.mem v))⟩,
   ⟨0xE5#8, .indexedMem (fun v => .bitb (.mem v))⟩,
   ⟨0xE6#8, .indexedMem (fun v => .ldb (.mem v))⟩,
   ⟨0xE7#8, .indexedMem .stb⟩,
   ⟨0xE8#8, .indexedMem (fun v => .eorb (.mem v))⟩,
   ⟨0xE9#8, .indexedMem (fun v => .adcb (.mem v))⟩,
   ⟨0xEA#8, .indexedMem (fun v => .orb (.mem v))⟩,
   ⟨0xEB#8, .indexedMem (fun v => .addb (.mem v))⟩,
   ⟨0xEC#8, .indexedMem (fun v => .ldd (.mem v))⟩,
   ⟨0xED#8, .indexedMem .std⟩,
   ⟨0xEE#8, .indexedMem (fun v => .ldu (.mem v))⟩,
   ⟨0xEF#8, .indexedMem .stu⟩,
   ⟨0xF0#8, .extended (fun v => .subb (.mem v))⟩,
   ⟨0xF1#8, .extended (fun v => .cmpb (.mem v))⟩,
   ⟨0xF2#8, .extended (fun v => .sbcb (.mem v))⟩,
   ⟨0xF3#8, .extended (fun v => .addd (.mem v))⟩,
   ⟨0xF4#8, .extended (fun v => .andb (.mem v))⟩,
   ⟨0xF5#8, .extended (fun v => .bitb (.mem v))⟩,
   ⟨0xF6#8, .extended (fun v => .ldb (.mem v))⟩,
   ⟨0xF7#8, .extended .stb⟩,
   ⟨0xF8#8, .extended (fun v => .eorb (.mem v))⟩,
   ⟨0xF9#8, .extended (fun v => .adcb (.mem v))⟩,
   ⟨0xFA#8, .extended (fun v => .orb (.mem v))⟩,
   ⟨0xFB#8, .extended (fun v => .addb (.mem v))⟩,
   ⟨0xFC#8, .extended (fun v => .ldd (.mem v))⟩,
   ⟨0xFD#8, .extended .std⟩,
   ⟨0xFE#8, .extended (fun v => .ldu (.mem v))⟩,
   ⟨0xFF#8, .extended .stu⟩]

/-- Page 1, the opcodes without a prefix (R86). -/
def page1Rows : List Row :=
  page1Rows01 ++ page1Rows23 ++ page1Rows45 ++ page1Rows67 ++ page1Rows89 ++ page1RowsAB ++ page1RowsCD ++ page1RowsEF

/-- Page 2, the opcodes after the byte $10 (R87). -/
def page2Rows : List Row :=
  [⟨0x21#8, .imm16 .lbrn⟩,
   ⟨0x22#8, .imm16 .lbhi⟩,
   ⟨0x23#8, .imm16 .lbls⟩,
   ⟨0x24#8, .imm16 .lbcc⟩,
   ⟨0x25#8, .imm16 .lbcs⟩,
   ⟨0x26#8, .imm16 .lbne⟩,
   ⟨0x27#8, .imm16 .lbeq⟩,
   ⟨0x28#8, .imm16 .lbvc⟩,
   ⟨0x29#8, .imm16 .lbvs⟩,
   ⟨0x2A#8, .imm16 .lbpl⟩,
   ⟨0x2B#8, .imm16 .lbmi⟩,
   ⟨0x2C#8, .imm16 .lbge⟩,
   ⟨0x2D#8, .imm16 .lblt⟩,
   ⟨0x2E#8, .imm16 .lbgt⟩,
   ⟨0x2F#8, .imm16 .lble⟩,
   ⟨0x3F#8, .inherent .swi2⟩,
   ⟨0x83#8, .imm16 (fun v => .cmpd (.imm v))⟩,
   ⟨0x93#8, .direct (fun v => .cmpd (.mem v))⟩,
   ⟨0xA3#8, .indexedMem (fun v => .cmpd (.mem v))⟩,
   ⟨0xB3#8, .extended (fun v => .cmpd (.mem v))⟩,
   ⟨0x8C#8, .imm16 (fun v => .cmpy (.imm v))⟩,
   ⟨0x9C#8, .direct (fun v => .cmpy (.mem v))⟩,
   ⟨0xAC#8, .indexedMem (fun v => .cmpy (.mem v))⟩,
   ⟨0xBC#8, .extended (fun v => .cmpy (.mem v))⟩,
   ⟨0x8E#8, .imm16 (fun v => .ldy (.imm v))⟩,
   ⟨0x9E#8, .direct (fun v => .ldy (.mem v))⟩,
   ⟨0xAE#8, .indexedMem (fun v => .ldy (.mem v))⟩,
   ⟨0xBE#8, .extended (fun v => .ldy (.mem v))⟩,
   ⟨0x9F#8, .direct .sty⟩,
   ⟨0xAF#8, .indexedMem .sty⟩,
   ⟨0xBF#8, .extended .sty⟩,
   ⟨0xCE#8, .imm16 (fun v => .lds (.imm v))⟩,
   ⟨0xDE#8, .direct (fun v => .lds (.mem v))⟩,
   ⟨0xEE#8, .indexedMem (fun v => .lds (.mem v))⟩,
   ⟨0xFE#8, .extended (fun v => .lds (.mem v))⟩,
   ⟨0xDF#8, .direct .sts⟩,
   ⟨0xEF#8, .indexedMem .sts⟩,
   ⟨0xFF#8, .extended .sts⟩]

/-- Page 3, the opcodes after the byte $11 (R87). -/
def page3Rows : List Row :=
  [⟨0x3F#8, .inherent .swi3⟩,
   ⟨0x83#8, .imm16 (fun v => .cmpu (.imm v))⟩,
   ⟨0x93#8, .direct (fun v => .cmpu (.mem v))⟩,
   ⟨0xA3#8, .indexedMem (fun v => .cmpu (.mem v))⟩,
   ⟨0xB3#8, .extended (fun v => .cmpu (.mem v))⟩,
   ⟨0x8C#8, .imm16 (fun v => .cmps (.imm v))⟩,
   ⟨0x9C#8, .direct (fun v => .cmps (.mem v))⟩,
   ⟨0xAC#8, .indexedMem (fun v => .cmps (.mem v))⟩,
   ⟨0xBC#8, .extended (fun v => .cmps (.mem v))⟩]

/-- The row of an opcode in a page, if the page defines it (R85). -/
def lookupRow (op : Byte) : List Row → Option Template
  | [] => none
  | r :: rest => if r.op = op then some r.form else lookupRow op rest

/-- The defined opcodes of each page (R86, R87). -/
def Page.rows : Page → List Row
  | .page1 => page1Rows
  | .page2 => page2Rows
  | .page3 => page3Rows

/-! ### Operand fields -/

/-- The base register of an indexed postbyte, its field RR (R68). -/
def indexRegOfCode (rr : BitVec 2) : IndexReg :=
  if rr = 0 then .x else if rr = 1 then .y else if rr = 2 then .u else .s

/-- The register of a 4-bit code of a TFR or EXG postbyte, if the code has one (R83). -/
def regOfCode (c : BitVec 4) : Option Reg :=
  match c.toNat with
  | 0 => some (.r16 .d)
  | 1 => some (.r16 .x)
  | 2 => some (.r16 .y)
  | 3 => some (.r16 .u)
  | 4 => some (.r16 .s)
  | 5 => some (.r16 .pc)
  | 8 => some (.r8 .a)
  | 9 => some (.r8 .b)
  | 10 => some (.r8 .cc)
  | 11 => some (.r8 .dp)
  | _ => none

/-- The pair a TFR or EXG postbyte names, if both codes are defined and of one width (R83). -/
def pairOfByte (pb : Byte) : Option (Reg × Reg) :=
  match regOfCode (pb.extractLsb' 4 4), regOfCode (pb.extractLsb' 0 4) with
  | some (.r8 p), some (.r8 q) => some (.r8 p, .r8 q)
  | some (.r16 p), some (.r16 q) => some (.r16 p, .r16 q)
  | _, _ => none

/-- The register list a PSH or PUL postbyte names (R84). -/
def RegList.ofByte (pb : Byte) : RegList where
  pc := pb.getLsbD 7
  other := pb.getLsbD 6
  y := pb.getLsbD 5
  x := pb.getLsbD 4
  dp := pb.getLsbD 3
  b := pb.getLsbD 2
  a := pb.getLsbD 1
  cc := pb.getLsbD 0

/-! ### Decoding -/

section Decoder

variable {ε : Type} (fetch : Nat → Except ε Byte) (undef : Undefined → ε)

/-- Two instruction bytes from index `k`, high first (`Fetch16`, R6). -/
def fetch16 (k : Nat) : Except ε Word := do
  let h ← fetch k
  let l ← fetch (k + 1)
  return join h l

/-- An indexed operand whose postbyte is byte `k`, and the index after its last byte (R68 to R80). -/
def decodeIndexed (k : Nat) : Except ε (Indexed × Nat) := do
  let pb ← fetch k
  let r := indexRegOfCode (pb.extractLsb' 5 2)
  let ind := pb.getLsbD 4
  if pb.getLsbD 7 = false then
    return (.offset5 r (pb.extractLsb' 0 5), k + 1)
  else
    match (pb.extractLsb' 0 4).toNat with
    | 0 => if ind then throw (undef (.indexedPostbyte pb)) else return (.postInc1 r, k + 1)
    | 1 => return (.postInc2 r ind, k + 1)
    | 2 => if ind then throw (undef (.indexedPostbyte pb)) else return (.preDec1 r, k + 1)
    | 3 => return (.preDec2 r ind, k + 1)
    | 4 => return (.noOffset r ind, k + 1)
    | 5 => return (.accB r ind, k + 1)
    | 6 => return (.accA r ind, k + 1)
    | 8 => do
      let o ← fetch (k + 1)
      return (.offset8 r o ind, k + 2)
    | 9 => do
      let o ← fetch16 fetch (k + 1)
      return (.offset16 r o ind, k + 3)
    | 11 => return (.accD r ind, k + 1)
    | 12 => do
      let o ← fetch (k + 1)
      return (.pcr8 r o ind, k + 2)
    | 13 => do
      let o ← fetch16 fetch (k + 1)
      return (.pcr16 r o ind, k + 3)
    | 15 =>
      if pb = 0x9F#8 then do
        let a ← fetch16 fetch (k + 1)
        return (.extIndirect a, k + 3)
      else throw (undef (.indexedPostbyte pb))
    | _ => throw (undef (.indexedPostbyte pb))

/-- The instruction of a template whose first operand byte is byte `k`, and the index after its last byte (R85). -/
def Template.parse (k : Nat) : Template → Except ε (Instr × Nat)
  | .inherent i => return (i, k)
  | .imm8 f => do
    let v ← fetch k
    return (f v, k + 1)
  | .imm16 f => do
    let v ← fetch16 fetch k
    return (f v, k + 2)
  | .direct f => do
    let a ← fetch k
    return (f (.direct a), k + 1)
  | .indexedMem f => do
    let (m, n) ← decodeIndexed fetch undef k
    return (f (.indexed m), n)
  | .extended f => do
    let a ← fetch16 fetch k
    return (f (.extended a), k + 2)
  | .indexed f => do
    let (m, n) ← decodeIndexed fetch undef k
    return (f m, n)
  | .regPair f => do
    let pb ← fetch k
    match pairOfByte pb with
    | some (r1, r2) => return (f r1 r2, k + 1)
    | none => throw (undef (.registerPair pb))
  | .regList f => do
    let pb ← fetch k
    return (f (RegList.ofByte pb), k + 1)

/-- The instruction of opcode `op` of a page, its operands from byte `k` on (R85, R88). -/
def decodeOpcode (page : Page) (op : Byte) (k : Nat) : Except ε (Instr × Nat) :=
  match lookupRow op page.rows with
  | some t => t.parse fetch undef k
  | none => throw (undef (.opcode page op))

/-- The decoder (R85): the instruction whose `k`-th byte `fetch k` gives, and its length in bytes. -/
def decodeFrom : Except ε (Instr × Nat) := do
  let b0 ← fetch 0
  if b0 = 0x10#8 then do
    let op ← fetch 1
    decodeOpcode fetch undef .page2 op 2
  else if b0 = 0x11#8 then do
    let op ← fetch 1
    decodeOpcode fetch undef .page3 op 2
  else decodeOpcode fetch undef .page1 b0 1

end Decoder

/-- Why a list of bytes is no instruction. -/
inductive DecodeError where
  /-- The list ends before the instruction does. -/
  | truncated
  /-- The bytes have no meaning in the spec (R80, R83, R88, R89). -/
  | undefined (what : Undefined)
  deriving DecidableEq, Repr

/-- The `k`-th byte of a list. -/
def byteAt (bs : List Byte) (k : Nat) : Except DecodeError Byte :=
  match bs[k]? with
  | some b => .ok b
  | none => .error .truncated

/-- The instruction at the head of a list of bytes, and its length. -/
def decode (bs : List Byte) : Except DecodeError (Instr × Nat) :=
  decodeFrom (byteAt bs) .undefined

/-! ### Encoding -/

/-- The field RR of a base register (R68). -/
def IndexReg.code : IndexReg → BitVec 2
  | .x => 0
  | .y => 1
  | .u => 2
  | .s => 3

/-- A postbyte with bit 7 set: RR, the indirect bit, MODE (R68). -/
def modeByte (r : IndexReg) (ind : Bool) (mode : BitVec 4) : Byte :=
  1#1 ++ r.code ++ BitVec.ofBool ind ++ mode

/-- The postbyte and offset bytes of an indexed operand (R68 to R79). -/
def encodeIndexed : Indexed → List Byte
  | .offset5 r o => [0#1 ++ r.code ++ o]
  | .postInc1 r => [modeByte r false 0]
  | .postInc2 r ind => [modeByte r ind 1]
  | .preDec1 r => [modeByte r false 2]
  | .preDec2 r ind => [modeByte r ind 3]
  | .noOffset r ind => [modeByte r ind 4]
  | .accB r ind => [modeByte r ind 5]
  | .accA r ind => [modeByte r ind 6]
  | .offset8 r o ind => [modeByte r ind 8, o]
  | .offset16 r o ind => [modeByte r ind 9, hiByte o, loByte o]
  | .accD r ind => [modeByte r ind 11]
  | .pcr8 rr o ind => [modeByte rr ind 12, o]
  | .pcr16 rr o ind => [modeByte rr ind 13, hiByte o, loByte o]
  | .extIndirect a => [0x9F, hiByte a, loByte a]

/-- The 4-bit code of a register (R83). -/
def Reg.code : Reg → BitVec 4
  | .r16 .d => 0
  | .r16 .x => 1
  | .r16 .y => 2
  | .r16 .u => 3
  | .r16 .s => 4
  | .r16 .pc => 5
  | .r8 .a => 8
  | .r8 .b => 9
  | .r8 .cc => 10
  | .r8 .dp => 11

/-- The TFR or EXG postbyte: R1 in bits 7:4, R2 in bits 3:0 (R83). -/
def pairByte (r1 r2 : Reg) : Byte := r1.code ++ r2.code

/-- The PSH or PUL postbyte (R84). -/
def RegList.toByte (l : RegList) : Byte :=
  BitVec.ofBool l.pc ++ BitVec.ofBool l.other ++ BitVec.ofBool l.y ++ BitVec.ofBool l.x ++
    BitVec.ofBool l.dp ++ BitVec.ofBool l.b ++ BitVec.ofBool l.a ++ BitVec.ofBool l.cc

/-- The page byte, if any, and the opcode (R61). -/
def opcodeBytes : Page → Byte → List Byte
  | .page1, op => [op]
  | .page2, op => [0x10, op]
  | .page3, op => [0x11, op]

/-- A memory operand after the opcode of its mode (R66 to R68). -/
def encodeMem (page : Page) (dir idx ext : Byte) : MemOperand → List Byte
  | .direct a => opcodeBytes page dir ++ [a]
  | .indexed m => opcodeBytes page idx ++ encodeIndexed m
  | .extended a => opcodeBytes page ext ++ [hiByte a, loByte a]

/-- An 8-bit source operand after the opcode of its mode (R64). -/
def encodeSrc8 (page : Page) (imm dir idx ext : Byte) : Src8 → List Byte
  | .imm v => opcodeBytes page imm ++ [v]
  | .mem m => encodeMem page dir idx ext m

/-- A 16-bit source operand after the opcode of its mode (R64). -/
def encodeSrc16 (page : Page) (imm dir idx ext : Byte) : Src16 → List Byte
  | .imm v => opcodeBytes page imm ++ [hiByte v, loByte v]
  | .mem m => encodeMem page dir idx ext m

/-- The bytes of an instruction, from the rows of spec/opcode_table.json (R93). -/
def encode : Instr → List Byte
  | .abx => opcodeBytes .page1 0x3A
  | .adca src => encodeSrc8 .page1 0x89 0x99 0xA9 0xB9 src
  | .adcb src => encodeSrc8 .page1 0xC9 0xD9 0xE9 0xF9 src
  | .adda src => encodeSrc8 .page1 0x8B 0x9B 0xAB 0xBB src
  | .addb src => encodeSrc8 .page1 0xCB 0xDB 0xEB 0xFB src
  | .addd src => encodeSrc16 .page1 0xC3 0xD3 0xE3 0xF3 src
  | .anda src => encodeSrc8 .page1 0x84 0x94 0xA4 0xB4 src
  | .andb src => encodeSrc8 .page1 0xC4 0xD4 0xE4 0xF4 src
  | .andcc m => opcodeBytes .page1 0x1C ++ [m]
  | .asla => opcodeBytes .page1 0x48
  | .aslb => opcodeBytes .page1 0x58
  | .asl m => encodeMem .page1 0x08 0x68 0x78 m
  | .asra => opcodeBytes .page1 0x47
  | .asrb => opcodeBytes .page1 0x57
  | .asr m => encodeMem .page1 0x07 0x67 0x77 m
  | .bita src => encodeSrc8 .page1 0x85 0x95 0xA5 0xB5 src
  | .bitb src => encodeSrc8 .page1 0xC5 0xD5 0xE5 0xF5 src
  | .clra => opcodeBytes .page1 0x4F
  | .clrb => opcodeBytes .page1 0x5F
  | .clr m => encodeMem .page1 0x0F 0x6F 0x7F m
  | .cmpa src => encodeSrc8 .page1 0x81 0x91 0xA1 0xB1 src
  | .cmpb src => encodeSrc8 .page1 0xC1 0xD1 0xE1 0xF1 src
  | .cmpd src => encodeSrc16 .page2 0x83 0x93 0xA3 0xB3 src
  | .cmps src => encodeSrc16 .page3 0x8C 0x9C 0xAC 0xBC src
  | .cmpu src => encodeSrc16 .page3 0x83 0x93 0xA3 0xB3 src
  | .cmpx src => encodeSrc16 .page1 0x8C 0x9C 0xAC 0xBC src
  | .cmpy src => encodeSrc16 .page2 0x8C 0x9C 0xAC 0xBC src
  | .coma => opcodeBytes .page1 0x43
  | .comb => opcodeBytes .page1 0x53
  | .com m => encodeMem .page1 0x03 0x63 0x73 m
  | .cwai m => opcodeBytes .page1 0x3C ++ [m]
  | .daa => opcodeBytes .page1 0x19
  | .deca => opcodeBytes .page1 0x4A
  | .decb => opcodeBytes .page1 0x5A
  | .dec m => encodeMem .page1 0x0A 0x6A 0x7A m
  | .eora src => encodeSrc8 .page1 0x88 0x98 0xA8 0xB8 src
  | .eorb src => encodeSrc8 .page1 0xC8 0xD8 0xE8 0xF8 src
  | .exg r1 r2 => opcodeBytes .page1 0x1E ++ [pairByte r1 r2]
  | .inca => opcodeBytes .page1 0x4C
  | .incb => opcodeBytes .page1 0x5C
  | .inc m => encodeMem .page1 0x0C 0x6C 0x7C m
  | .jmp m => encodeMem .page1 0x0E 0x6E 0x7E m
  | .jsr m => encodeMem .page1 0x9D 0xAD 0xBD m
  | .lda src => encodeSrc8 .page1 0x86 0x96 0xA6 0xB6 src
  | .ldb src => encodeSrc8 .page1 0xC6 0xD6 0xE6 0xF6 src
  | .ldd src => encodeSrc16 .page1 0xCC 0xDC 0xEC 0xFC src
  | .lds src => encodeSrc16 .page2 0xCE 0xDE 0xEE 0xFE src
  | .ldu src => encodeSrc16 .page1 0xCE 0xDE 0xEE 0xFE src
  | .ldx src => encodeSrc16 .page1 0x8E 0x9E 0xAE 0xBE src
  | .ldy src => encodeSrc16 .page2 0x8E 0x9E 0xAE 0xBE src
  | .leas m => opcodeBytes .page1 0x32 ++ encodeIndexed m
  | .leau m => opcodeBytes .page1 0x33 ++ encodeIndexed m
  | .leax m => opcodeBytes .page1 0x30 ++ encodeIndexed m
  | .leay m => opcodeBytes .page1 0x31 ++ encodeIndexed m
  | .lsla => opcodeBytes .page1 0x48
  | .lslb => opcodeBytes .page1 0x58
  | .lsl m => encodeMem .page1 0x08 0x68 0x78 m
  | .lsra => opcodeBytes .page1 0x44
  | .lsrb => opcodeBytes .page1 0x54
  | .lsr m => encodeMem .page1 0x04 0x64 0x74 m
  | .mul => opcodeBytes .page1 0x3D
  | .nega => opcodeBytes .page1 0x40
  | .negb => opcodeBytes .page1 0x50
  | .neg m => encodeMem .page1 0x00 0x60 0x70 m
  | .nop => opcodeBytes .page1 0x12
  | .ora src => encodeSrc8 .page1 0x8A 0x9A 0xAA 0xBA src
  | .orb src => encodeSrc8 .page1 0xCA 0xDA 0xEA 0xFA src
  | .orcc m => opcodeBytes .page1 0x1A ++ [m]
  | .pshs l => opcodeBytes .page1 0x34 ++ [l.toByte]
  | .pshu l => opcodeBytes .page1 0x36 ++ [l.toByte]
  | .puls l => opcodeBytes .page1 0x35 ++ [l.toByte]
  | .pulu l => opcodeBytes .page1 0x37 ++ [l.toByte]
  | .rola => opcodeBytes .page1 0x49
  | .rolb => opcodeBytes .page1 0x59
  | .rol m => encodeMem .page1 0x09 0x69 0x79 m
  | .rora => opcodeBytes .page1 0x46
  | .rorb => opcodeBytes .page1 0x56
  | .ror m => encodeMem .page1 0x06 0x66 0x76 m
  | .rti => opcodeBytes .page1 0x3B
  | .rts => opcodeBytes .page1 0x39
  | .sbca src => encodeSrc8 .page1 0x82 0x92 0xA2 0xB2 src
  | .sbcb src => encodeSrc8 .page1 0xC2 0xD2 0xE2 0xF2 src
  | .sex => opcodeBytes .page1 0x1D
  | .sta m => encodeMem .page1 0x97 0xA7 0xB7 m
  | .stb m => encodeMem .page1 0xD7 0xE7 0xF7 m
  | .std m => encodeMem .page1 0xDD 0xED 0xFD m
  | .sts m => encodeMem .page2 0xDF 0xEF 0xFF m
  | .stu m => encodeMem .page1 0xDF 0xEF 0xFF m
  | .stx m => encodeMem .page1 0x9F 0xAF 0xBF m
  | .sty m => encodeMem .page2 0x9F 0xAF 0xBF m
  | .suba src => encodeSrc8 .page1 0x80 0x90 0xA0 0xB0 src
  | .subb src => encodeSrc8 .page1 0xC0 0xD0 0xE0 0xF0 src
  | .subd src => encodeSrc16 .page1 0x83 0x93 0xA3 0xB3 src
  | .swi => opcodeBytes .page1 0x3F
  | .swi2 => opcodeBytes .page2 0x3F
  | .swi3 => opcodeBytes .page3 0x3F
  | .sync => opcodeBytes .page1 0x13
  | .tfr r1 r2 => opcodeBytes .page1 0x1F ++ [pairByte r1 r2]
  | .tsta => opcodeBytes .page1 0x4D
  | .tstb => opcodeBytes .page1 0x5D
  | .tst m => encodeMem .page1 0x0D 0x6D 0x7D m
  | .bcc o => opcodeBytes .page1 0x24 ++ [o]
  | .lbcc o => opcodeBytes .page2 0x24 ++ [hiByte o, loByte o]
  | .bcs o => opcodeBytes .page1 0x25 ++ [o]
  | .lbcs o => opcodeBytes .page2 0x25 ++ [hiByte o, loByte o]
  | .beq o => opcodeBytes .page1 0x27 ++ [o]
  | .lbeq o => opcodeBytes .page2 0x27 ++ [hiByte o, loByte o]
  | .bge o => opcodeBytes .page1 0x2C ++ [o]
  | .lbge o => opcodeBytes .page2 0x2C ++ [hiByte o, loByte o]
  | .bgt o => opcodeBytes .page1 0x2E ++ [o]
  | .lbgt o => opcodeBytes .page2 0x2E ++ [hiByte o, loByte o]
  | .bhi o => opcodeBytes .page1 0x22 ++ [o]
  | .lbhi o => opcodeBytes .page2 0x22 ++ [hiByte o, loByte o]
  | .bhs o => opcodeBytes .page1 0x24 ++ [o]
  | .lbhs o => opcodeBytes .page2 0x24 ++ [hiByte o, loByte o]
  | .ble o => opcodeBytes .page1 0x2F ++ [o]
  | .lble o => opcodeBytes .page2 0x2F ++ [hiByte o, loByte o]
  | .blo o => opcodeBytes .page1 0x25 ++ [o]
  | .lblo o => opcodeBytes .page2 0x25 ++ [hiByte o, loByte o]
  | .bls o => opcodeBytes .page1 0x23 ++ [o]
  | .lbls o => opcodeBytes .page2 0x23 ++ [hiByte o, loByte o]
  | .blt o => opcodeBytes .page1 0x2D ++ [o]
  | .lblt o => opcodeBytes .page2 0x2D ++ [hiByte o, loByte o]
  | .bmi o => opcodeBytes .page1 0x2B ++ [o]
  | .lbmi o => opcodeBytes .page2 0x2B ++ [hiByte o, loByte o]
  | .bne o => opcodeBytes .page1 0x26 ++ [o]
  | .lbne o => opcodeBytes .page2 0x26 ++ [hiByte o, loByte o]
  | .bpl o => opcodeBytes .page1 0x2A ++ [o]
  | .lbpl o => opcodeBytes .page2 0x2A ++ [hiByte o, loByte o]
  | .bra o => opcodeBytes .page1 0x20 ++ [o]
  | .lbra o => opcodeBytes .page1 0x16 ++ [hiByte o, loByte o]
  | .brn o => opcodeBytes .page1 0x21 ++ [o]
  | .lbrn o => opcodeBytes .page2 0x21 ++ [hiByte o, loByte o]
  | .bsr o => opcodeBytes .page1 0x8D ++ [o]
  | .lbsr o => opcodeBytes .page1 0x17 ++ [hiByte o, loByte o]
  | .bvc o => opcodeBytes .page1 0x28 ++ [o]
  | .lbvc o => opcodeBytes .page2 0x28 ++ [hiByte o, loByte o]
  | .bvs o => opcodeBytes .page1 0x29 ++ [o]
  | .lbvs o => opcodeBytes .page2 0x29 ++ [hiByte o, loByte o]

/-- The instruction the decoder gives for an instruction's bytes: the canonical name of a second name (R91), every other
instruction itself. -/
def Instr.canonical : Instr → Instr
  | .abx => .abx
  | .adca src => .adca src
  | .adcb src => .adcb src
  | .adda src => .adda src
  | .addb src => .addb src
  | .addd src => .addd src
  | .anda src => .anda src
  | .andb src => .andb src
  | .andcc m => .andcc m
  | .asla => .asla
  | .aslb => .aslb
  | .asl m => .asl m
  | .asra => .asra
  | .asrb => .asrb
  | .asr m => .asr m
  | .bita src => .bita src
  | .bitb src => .bitb src
  | .clra => .clra
  | .clrb => .clrb
  | .clr m => .clr m
  | .cmpa src => .cmpa src
  | .cmpb src => .cmpb src
  | .cmpd src => .cmpd src
  | .cmps src => .cmps src
  | .cmpu src => .cmpu src
  | .cmpx src => .cmpx src
  | .cmpy src => .cmpy src
  | .coma => .coma
  | .comb => .comb
  | .com m => .com m
  | .cwai m => .cwai m
  | .daa => .daa
  | .deca => .deca
  | .decb => .decb
  | .dec m => .dec m
  | .eora src => .eora src
  | .eorb src => .eorb src
  | .exg r1 r2 => .exg r1 r2
  | .inca => .inca
  | .incb => .incb
  | .inc m => .inc m
  | .jmp m => .jmp m
  | .jsr m => .jsr m
  | .lda src => .lda src
  | .ldb src => .ldb src
  | .ldd src => .ldd src
  | .lds src => .lds src
  | .ldu src => .ldu src
  | .ldx src => .ldx src
  | .ldy src => .ldy src
  | .leas m => .leas m
  | .leau m => .leau m
  | .leax m => .leax m
  | .leay m => .leay m
  | .lsla => .asla
  | .lslb => .aslb
  | .lsl m => .asl m
  | .lsra => .lsra
  | .lsrb => .lsrb
  | .lsr m => .lsr m
  | .mul => .mul
  | .nega => .nega
  | .negb => .negb
  | .neg m => .neg m
  | .nop => .nop
  | .ora src => .ora src
  | .orb src => .orb src
  | .orcc m => .orcc m
  | .pshs l => .pshs l
  | .pshu l => .pshu l
  | .puls l => .puls l
  | .pulu l => .pulu l
  | .rola => .rola
  | .rolb => .rolb
  | .rol m => .rol m
  | .rora => .rora
  | .rorb => .rorb
  | .ror m => .ror m
  | .rti => .rti
  | .rts => .rts
  | .sbca src => .sbca src
  | .sbcb src => .sbcb src
  | .sex => .sex
  | .sta m => .sta m
  | .stb m => .stb m
  | .std m => .std m
  | .sts m => .sts m
  | .stu m => .stu m
  | .stx m => .stx m
  | .sty m => .sty m
  | .suba src => .suba src
  | .subb src => .subb src
  | .subd src => .subd src
  | .swi => .swi
  | .swi2 => .swi2
  | .swi3 => .swi3
  | .sync => .sync
  | .tfr r1 r2 => .tfr r1 r2
  | .tsta => .tsta
  | .tstb => .tstb
  | .tst m => .tst m
  | .bcc o => .bcc o
  | .lbcc o => .lbcc o
  | .bcs o => .bcs o
  | .lbcs o => .lbcs o
  | .beq o => .beq o
  | .lbeq o => .lbeq o
  | .bge o => .bge o
  | .lbge o => .lbge o
  | .bgt o => .bgt o
  | .lbgt o => .lbgt o
  | .bhi o => .bhi o
  | .lbhi o => .lbhi o
  | .bhs o => .bcc o
  | .lbhs o => .lbcc o
  | .ble o => .ble o
  | .lble o => .lble o
  | .blo o => .bcs o
  | .lblo o => .lbcs o
  | .bls o => .bls o
  | .lbls o => .lbls o
  | .blt o => .blt o
  | .lblt o => .lblt o
  | .bmi o => .bmi o
  | .lbmi o => .lbmi o
  | .bne o => .bne o
  | .lbne o => .lbne o
  | .bpl o => .bpl o
  | .lbpl o => .lbpl o
  | .bra o => .bra o
  | .lbra o => .lbra o
  | .brn o => .brn o
  | .lbrn o => .lbrn o
  | .bsr o => .bsr o
  | .lbsr o => .lbsr o
  | .bvc o => .bvc o
  | .lbvc o => .lbvc o
  | .bvs o => .bvs o
  | .lbvs o => .lbvs o

/-! ### The host's question -/

/-- The five bytes of an opcode-table word: `nbits` bits of `w`, zero above. The table numbers a two-byte opcode as one
big-endian number, its page byte in bits 15:8 and all operand bits zero (R93); any other word has its first byte in bits
7:0. Log 13. -/
def tableBytes (nbits w : Nat) : List Byte :=
  let v := w % 2 ^ nbits
  if v / 256 = 0x10 ∨ v / 256 = 0x11 then [BitVec.ofNat 8 (v / 256), BitVec.ofNat 8 v, 0, 0, 0]
  else [BitVec.ofNat 8 v, BitVec.ofNat 8 (v / 256), BitVec.ofNat 8 (v / 65536),
    BitVec.ofNat 8 (v / 16777216), BitVec.ofNat 8 (v / 4294967296)]

/-- The instruction the decoder reads from an opcode-table word, if any. -/
def decodeTableWord (nbits w : Nat) : Option Instr :=
  match decode (tableBytes nbits w) with
  | .ok (i, _) => some i
  | .error _ => none

end Sys2Proof
end

