-- ==== Sys2Proof/Machine/Memory.lean ====
section
/-! DEFINITION. Memory as plain data: the bytes that differ from what an unlisted address reads as, in rising address
order (spec/20_memory.md R40, R41). The operations stay right on any list; on one in canonical form they keep it. -/

namespace Sys2Proof.Machine

/-- The 65,536 bytes of memory (R40), as the list of the cells that do not hold `Memory.fill`. -/
abbrev Memory := List Host.Cell

/-- What an address that no cell lists reads as. DESIGN CHOICE, log 3: the spec leaves the power-on contents to the
parameter `MEM0` (R38, R49). -/
def Memory.fill : Byte := 0

/-- The byte at an address. -/
def Memory.read : Memory → Nat → Byte
  | [], _ => Memory.fill
  | (k, v) :: rest, a => if a < k then Memory.fill else if a = k then v else Memory.read rest a

/-- The cells above an address. -/
def Memory.dropUpTo : Memory → Nat → Memory
  | [], _ => []
  | (k, v) :: rest, a => if k ≤ a then Memory.dropUpTo rest a else (k, v) :: rest

/-- A cell for `b` at `a` before `rest`; no cell where `b` is what an unlisted address reads as. -/
def Memory.cons (a : Nat) (b : Byte) (rest : Memory) : Memory :=
  if b = Memory.fill then rest else (a, b) :: rest

/-- Memory with the byte at `a` replaced by `b`. -/
def Memory.write : Memory → Nat → Byte → Memory
  | [], a, b => Memory.cons a b []
  | (k, v) :: rest, a, b =>
    if a < k then Memory.cons a b ((k, v) :: rest)
    else if a = k then Memory.cons a b (Memory.dropUpTo rest a)
    else (k, v) :: Memory.write rest a b

/-- The canonical form from address `lo` on: addresses strictly rising from `lo` and below 65,536, no cell equal to what
an unlisted address reads as. -/
def Memory.wfFrom : Nat → Memory → Bool
  | _, [] => true
  | lo, (k, v) :: rest => decide (lo ≤ k) && decide (k < 65536) && (v != Memory.fill) && Memory.wfFrom (k + 1) rest

/-- The canonical form. -/
def Memory.wf (m : Memory) : Bool := Memory.wfFrom 0 m

end Sys2Proof.Machine
end

