-- ==== Sys2Proof/Machine/State.lean ====
section
/-! DEFINITION. The state of the machine as plain data, and the reasons a step can stop (spec/10_state.md). -/

namespace Sys2Proof.Machine

/-- `run_state` (R35 a): executing, waiting after CWAI (R312), waiting after SYNC (R313). -/
inductive RunState where
  | running | cwaiWait | syncWait
  deriving DecidableEq, Repr

/-- The platform's class of an address (R49). -/
inductive RegionKind where
  | ram | rom | device | absent
  deriving DecidableEq, Repr

/-- A range of addresses of one class: `size` addresses from `base` on. -/
structure Region where
  base : Nat
  size : Nat
  kind : RegionKind
  deriving DecidableEq, Repr

/-- The parameter `REGION` (R49): the first region that holds an address gives its class; an address that no region
holds is ram. Log 4. -/
abbrev Platform := List Region

/-- One sample of the interrupt inputs, one answer of `IRQ_IN` (R302). -/
structure Inputs where
  nmiEdge : Bool
  firqLevel : Bool
  irqLevel : Bool
  deriving DecidableEq, Repr

/-- Why a step faults. -/
inductive Fault where
  /-- `raise Undefined(what)`: raised by a fetch whose bytes have no meaning in the spec, and by TFR and EXG on a pair of
  two widths (R80, R83, R88, R89; D1). Safe: the run ends where the spec gives no meaning. -/
  | undefined (what : Undefined)
  /-- Raised by any access to an address the platform declares absent (R49). Safe: the spec gives the access no
  meaning. -/
  | absentAddress (addr : Word)
  deriving DecidableEq, Repr

/-- Why a step is refused. -/
inductive Refusal where
  /-- Answered by an arm of `exec` that has no meaning yet; no arm answers it. Safe. -/
  | notModelled (mnemonic : String)
  /-- Answered by any access to an address the platform gives to a device, whose behaviour the spec does not describe
  (R49, U8). Safe: the run ends before the access. -/
  | deviceAddress (addr : Word)
  deriving DecidableEq, Repr

/-- Why an operation of the machine cannot go on. -/
inductive Stop where
  | fault (r : Fault)
  | refused (r : Refusal)
  deriving DecidableEq, Repr

/-- Everything the spec gives the machine (R20 to R37), the parameters of one machine as data (R3), and the model's own
counter of free values. -/
structure State where
  /-- Accumulator A (R21). -/
  a : Byte
  /-- Accumulator B (R21). -/
  b : Byte
  /-- Direct page register (R26). -/
  dp : Byte
  /-- Condition code register, bits E F H I N Z V C from 7 down to 0 (R27). -/
  cc : Byte
  /-- Index register X (R23). -/
  x : Word
  /-- Index register Y (R23). -/
  y : Word
  /-- User stack pointer (R24). -/
  u : Word
  /-- Hardware stack pointer (R24). -/
  s : Word
  /-- Program counter (R25). -/
  pc : Word
  /-- `run_state` (R35 a). -/
  runState : RunState
  /-- `nmi_armed` (R35 b). -/
  nmiArmed : Bool
  /-- `nmi_pending` (R35 c). -/
  nmiPending : Bool
  /-- Memory (R36, R40). -/
  mem : Memory
  /-- The parameter `REGION` (R49); no step changes it. Log 4. -/
  platform : Platform
  /-- The samples `IRQ_IN` has still to give, the next one first; none left means no request for ever (R302). Log 5. -/
  irqIn : List Inputs
  /-- How many undefined half carries have been drawn: the model's own counter (R13). Log 6. -/
  draws : Nat
  deriving DecidableEq, Repr

/-- The machine right after reset (R38, R340) on a platform that is all ram, with nothing listed in memory and no
interrupt input: DP, CC.I, CC.F, `run_state`, `nmi_armed` and `nmi_pending` as the spec states them, PC read from the
reset vector at $FFFE. A, B, X, Y, U, S and CC bits E, H, N, Z, V, C are unspecified in the spec and 0 here: DESIGN CHOICE,
log 2. -/
def State.reset : State where
  a := 0
  b := 0
  dp := 0
  cc := 0x50
  x := 0
  y := 0
  u := 0
  s := 0
  pc := join (Memory.read [] 0xFFFE) (Memory.read [] 0xFFFF)
  runState := .running
  nmiArmed := false
  nmiPending := false
  mem := []
  platform := []
  irqIn := []
  draws := 0

end Sys2Proof.Machine
end

