-- ==== Sys2Proof/Machine/Flags.lean ====
section
/-! DEFINITION. The condition code register and every flag computation of the spec: the accessors of CC (spec/10_state.md
R27), the arithmetic helpers R7 to R12, the single-operand operations, DAA, and the branch conditions (R250). -/

namespace Sys2Proof.Machine

/-! ### The condition code register -/

/-- The bits of CC (R27). -/
inductive Flag where
  | e | f | h | i | n | z | v | c
  deriving DecidableEq, Repr

/-- The bit number of a flag (R27). -/
def Flag.bit : Flag → Nat
  | .e => 7
  | .f => 6
  | .h => 5
  | .i => 4
  | .n => 3
  | .z => 2
  | .v => 1
  | .c => 0

/-- The byte with a flag's bit set alone. -/
def Flag.mask (k : Flag) : Byte := BitVec.twoPow 8 k.bit

/-- `CC.f`: the value of a flag in a CC byte (R6, R27). -/
def CC.get (cc : Byte) (k : Flag) : Bool := cc.getLsbD k.bit

/-- `CC.f <- b`: a CC byte with one flag replaced (R6, R27). -/
def CC.put (cc : Byte) (k : Flag) (b : Bool) : Byte :=
  if b then cc ||| k.mask else cc &&& ~~~k.mask

/-- CC with N, Z, V and C replaced. -/
def CC.putNZVC (cc : Byte) (n z v c : Bool) : Byte :=
  CC.put (CC.put (CC.put (CC.put cc .n n) .z z) .v v) .c c

/-- CC with N, Z and V replaced. -/
def CC.putNZV (cc : Byte) (n z v : Bool) : Byte :=
  CC.put (CC.put (CC.put cc .n n) .z z) .v v

/-- CC with N, Z and C replaced. -/
def CC.putNZC (cc : Byte) (n z c : Bool) : Byte :=
  CC.put (CC.put (CC.put cc .n n) .z z) .c c

/-! ### Arithmetic helpers -/

/-- `nz8` (R7): the sign bit of an 8-bit result, and whether it is zero. -/
def nz8 (r : Byte) : Bool × Bool := (r.msb, r == 0)

/-- `nz16` (R7): bit 15 of a 16-bit result, and whether all sixteen bits are zero. -/
def nz16 (r : Word) : Bool × Bool := (r.msb, r == 0)

/-- What `add8` returns (R8). -/
structure Sum8 where
  value : Byte
  h : Bool
  n : Bool
  z : Bool
  v : Bool
  c : Bool
  deriving DecidableEq, Repr

/-- What `sub8` returns (R9). -/
structure Alu8 where
  value : Byte
  n : Bool
  z : Bool
  v : Bool
  c : Bool
  deriving DecidableEq, Repr

/-- What `add16` and `sub16` return (R10, R11). -/
structure Alu16 where
  value : Word
  n : Bool
  z : Bool
  v : Bool
  c : Bool
  deriving DecidableEq, Repr

/-- `add8(a, b, cin)` (R8): the sum as a natural number, narrowed to 8 bits; C is the carry out of bit 7, H the carry out
of bit 3, V the signed overflow. -/
def add8 (a b : Byte) (cin : Bool) : Sum8 :=
  let sum := a.toNat + b.toNat + cin.toNat
  let r := BitVec.ofNat 8 sum
  { value := r
    h := decide (16 ≤ a.toNat % 16 + b.toNat % 16 + cin.toNat)
    n := (nz8 r).1
    z := (nz8 r).2
    v := a.msb == b.msb && r.msb != a.msb
    c := decide (256 ≤ sum) }

/-- `sub8(a, b, bin)` (R9): the difference as an integer, narrowed to 8 bits; C is the borrow, V the signed overflow. -/
def sub8 (a b : Byte) (bin : Bool) : Alu8 :=
  let diff : Int := (a.toNat : Int) - (b.toNat : Int) - (bin.toNat : Int)
  let r := BitVec.ofInt 8 diff
  { value := r
    n := (nz8 r).1
    z := (nz8 r).2
    v := a.msb != b.msb && r.msb != a.msb
    c := decide (diff < 0) }

/-- `add16(a, b)` (R10). -/
def add16 (a b : Word) : Alu16 :=
  let sum := a.toNat + b.toNat
  let r := BitVec.ofNat 16 sum
  { value := r
    n := (nz16 r).1
    z := (nz16 r).2
    v := a.msb == b.msb && r.msb != a.msb
    c := decide (65536 ≤ sum) }

/-- `sub16(a, b)` (R11). -/
def sub16 (a b : Word) : Alu16 :=
  let diff : Int := (a.toNat : Int) - (b.toNat : Int)
  let r := BitVec.ofInt 16 diff
  { value := r
    n := (nz16 r).1
    z := (nz16 r).2
    v := a.msb != b.msb && r.msb != a.msb
    c := decide (diff < 0) }

/-- `logic8` (R12): N and Z from the result, V cleared. -/
def CC.logic8 (cc : Byte) (r : Byte) : Byte := CC.putNZV cc (nz8 r).1 (nz8 r).2 false

/-- `logic16` (R12). -/
def CC.logic16 (cc : Byte) (r : Word) : Byte := CC.putNZV cc (nz16 r).1 (nz16 r).2 false

/-- CC after an 8-bit addition: H, N, Z, V, C from `add8` (R101 to R104). -/
def CC.ofSum8 (cc : Byte) (o : Sum8) : Byte := CC.putNZVC (CC.put cc .h o.h) o.n o.z o.v o.c

/-- CC after an 8-bit subtraction, compare or negation: H as drawn (R13), N, Z, V, C from `sub8` (R9). -/
def CC.ofAlu8 (cc : Byte) (h : Bool) (o : Alu8) : Byte := CC.putNZVC (CC.put cc .h h) o.n o.z o.v o.c

/-- CC after a 16-bit addition, subtraction or compare: N, Z, V, C; H unchanged (R10, R11). -/
def CC.ofAlu16 (cc : Byte) (o : Alu16) : Byte := CC.putNZVC cc o.n o.z o.v o.c

/-! ### Single-operand operations: the old value and the old CC give the result and the new CC -/

/-- ASL and LSL (R109 to R111, R171 to R173): C is old bit 7, V old bit 7 xor old bit 6, H as drawn. -/
def asl8 (h : Bool) (v : Byte) (cc : Byte) : Byte × Byte :=
  let r := v <<< 1
  (r, CC.putNZVC (CC.put cc .h h) (nz8 r).1 (nz8 r).2 (v.getLsbD 7 ^^ v.getLsbD 6) (v.getLsbD 7))

/-- ASR (R112 to R114): bit 7 is kept, C is old bit 0, V unchanged, H as drawn. -/
def asr8 (h : Bool) (v : Byte) (cc : Byte) : Byte × Byte :=
  let r := (v >>> 1) ||| (v &&& 0x80)
  (r, CC.putNZC (CC.put cc .h h) (nz8 r).1 (nz8 r).2 (v.getLsbD 0))

/-- LSR (R174 to R176): bit 7 of the result is 0, N cleared, C is old bit 0, V and H unchanged. -/
def lsr8 (v : Byte) (cc : Byte) : Byte × Byte :=
  let r := v >>> 1
  (r, CC.putNZC cc false (nz8 r).2 (v.getLsbD 0))

/-- ROL (R202 to R204): the old carry enters at bit 0, C is old bit 7, V old bit 7 xor old bit 6, H unchanged. -/
def rol8 (v : Byte) (cc : Byte) : Byte × Byte :=
  let r := (v <<< 1) ||| (BitVec.ofBool (CC.get cc .c)).setWidth 8
  (r, CC.putNZVC cc (nz8 r).1 (nz8 r).2 (v.getLsbD 7 ^^ v.getLsbD 6) (v.getLsbD 7))

/-- ROR (R205 to R207): the old carry enters at bit 7, C is old bit 0, N from the result (D28, log 15), V and H
unchanged. -/
def ror8 (v : Byte) (cc : Byte) : Byte × Byte :=
  let r := (v >>> 1) ||| ((BitVec.ofBool (CC.get cc .c)).setWidth 8 <<< 7)
  (r, CC.putNZC cc (nz8 r).1 (nz8 r).2 (v.getLsbD 0))

/-- NEG (R178 to R180): the subtraction 0 - v, H as drawn. -/
def neg8 (h : Bool) (v : Byte) (cc : Byte) : Byte × Byte :=
  let o := sub8 0 v false
  (o.value, CC.ofAlu8 cc h o)

/-- COM (R127 to R129): one's complement; V cleared, C set, H unchanged. -/
def com8 (v : Byte) (cc : Byte) : Byte × Byte :=
  let r := ~~~v
  (r, CC.putNZVC cc (nz8 r).1 (nz8 r).2 false true)

/-- INC (R143 to R145): V set exactly when the old value was $7F; C and H unchanged. -/
def inc8 (v : Byte) (cc : Byte) : Byte × Byte :=
  let r := v + 1
  (r, CC.putNZV cc (nz8 r).1 (nz8 r).2 (v == 0x7F))

/-- DEC (R132 to R134): V set exactly when the old value was $80; C and H unchanged. -/
def dec8 (v : Byte) (cc : Byte) : Byte × Byte :=
  let r := v - 1
  (r, CC.putNZV cc (nz8 r).1 (nz8 r).2 (v == 0x80))

/-- CC after CLR (R117 to R119): N 0, Z 1, V 0, C 0, H unchanged (C1). -/
def CC.clear (cc : Byte) : Byte := CC.putNZVC cc false true false false

/-- DAA (R131): the adjusted A and the new CC. V is cleared (D25, log 14); C is never cleared; H unchanged. -/
def daa8 (a : Byte) (cc : Byte) : Byte × Byte :=
  let lo := a.toNat % 16
  let hi := a.toNat / 16
  let low : Byte := if CC.get cc .h = true ∨ 9 < lo then 0x06 else 0x00
  let high : Byte := if CC.get cc .c = true ∨ 9 < hi ∨ (8 < hi ∧ 9 < lo) then 0x60 else 0x00
  let t := a.toNat + (low ||| high).toNat
  let r := BitVec.ofNat 8 t
  (r, CC.putNZVC cc (nz8 r).1 (nz8 r).2 false (CC.get cc .c || decide (256 ≤ t)))

/-! ### Branch conditions -/

/-- The sixteen conditions of the branch table, opcode low nibble 0 to F (R250). -/
inductive Cond where
  | always | never | hi | ls | cc | cs | ne | eq | vc | vs | pl | mi | ge | lt | gt | le
  deriving DecidableEq, Repr

/-- `cond(CC, k)` (R250): whether a branch of condition `k` is taken. -/
def Cond.holds (k : Cond) (cc : Byte) : Bool :=
  match k with
  | .always => true
  | .never => false
  | .hi => !(CC.get cc .c || CC.get cc .z)
  | .ls => CC.get cc .c || CC.get cc .z
  | .cc => !CC.get cc .c
  | .cs => CC.get cc .c
  | .ne => !CC.get cc .z
  | .eq => CC.get cc .z
  | .vc => !CC.get cc .v
  | .vs => CC.get cc .v
  | .pl => !CC.get cc .n
  | .mi => CC.get cc .n
  | .ge => !(CC.get cc .n ^^ CC.get cc .v)
  | .lt => CC.get cc .n ^^ CC.get cc .v
  | .gt => !(CC.get cc .z || (CC.get cc .n ^^ CC.get cc .v))
  | .le => CC.get cc .z || (CC.get cc .n ^^ CC.get cc .v)

end Sys2Proof.Machine
end

