-- ==== Sys2Proof/Machine/Ops.lean ====
section
/-! DEFINITION. The named operations over memory and registers: memory access by region (spec/20_memory.md), register
access (spec/10_state.md), the stacks (R48), the entire state and the exception entry and return (spec/60_exceptions.md),
the reset sequence (R340), the free half carry (R13). -/

namespace Sys2Proof.Machine

/-- The result of an operation that can stop. -/
abbrev Res (α : Type) := Except Stop α

/-- The outcome of a step from the result of its operation. -/
def finish : Res State → Host.Outcome State Fault Refusal
  | .ok s => .next s
  | .error (.fault r) => .fault r
  | .error (.refused r) => .refused r

/-! ### Memory -/

/-- The class of an address on a platform: the first region that holds it, ram where none does (R49, log 4). -/
def regionOf : Platform → Nat → RegionKind
  | [], _ => .ram
  | r :: rest, a => if r.base ≤ a ∧ a < r.base + r.size then r.kind else regionOf rest a

/-- The class of an address in a state. -/
def State.region (s : State) (a : Word) : RegionKind := regionOf s.platform a.toNat

/-- `MemRead(addr, 1)` (R41, R49). -/
def readByte (s : State) (a : Word) : Res Byte :=
  match s.region a with
  | .ram => .ok (Memory.read s.mem a.toNat)
  | .rom => .ok (Memory.read s.mem a.toNat)
  | .device => .error (.refused (.deviceAddress a))
  | .absent => .error (.fault (.absentAddress a))

/-- `MemWrite(addr, 1, v)` (R41); a write to rom leaves the byte unchanged (R49). -/
def writeByte (s : State) (a : Word) (v : Byte) : Res State :=
  match s.region a with
  | .ram => .ok { s with mem := Memory.write s.mem a.toNat v }
  | .rom => .ok s
  | .device => .error (.refused (.deviceAddress a))
  | .absent => .error (.fault (.absentAddress a))

/-- The ways an operation reaches memory and the rest of the machine, with results in `m`. Each operation that makes a
memory access is written once, over a bus: `Bus.plain` gives its effect as a whole, `Bus.counted` (Machine/Reset.lean)
its state between two accesses (R46, R340). -/
structure Bus (m : Type → Type) where
  /-- `MemRead(addr, 1)`. -/
  read : State → Word → m Byte
  /-- `MemWrite(addr, 1, v)`. -/
  write : State → Word → Byte → m State
  /-- An effect that makes no data access. -/
  inner : Host.Outcome State Fault Refusal → m State

/-- The result of an operation from the outcome of an effect. -/
def Res.ofOutcome : Host.Outcome State Fault Refusal → Res State
  | .next s => .ok s
  | .fault r => .error (.fault r)
  | .refused r => .error (.refused r)

/-- The bus whose accesses follow each other without a break. -/
def Bus.plain : Bus (Except Stop) where
  read := readByte
  write := writeByte
  inner := Res.ofOutcome

section
variable {μ : Type → Type} [Monad μ] (bus : Bus μ)

/-- `MemRead(addr, 2)`: the byte at `addr` is the high half, `addr + 1` modulo 2^16 the low half (R42, R44). -/
def Bus.readWord (s : State) (a : Word) : μ Word := do
  let h ← bus.read s a
  let l ← bus.read s (a + 1)
  return join h l

/-- `MemWrite(addr, 2, v)`: the high byte first, to the lower address (R42, R46). -/
def Bus.writeWord (s : State) (a v : Word) : μ State := do
  let s ← bus.write s a (hiByte v)
  bus.write s (a + 1) (loByte v)

end

/-- `MemRead(addr, 2)` as a whole (R42). -/
def readWord (s : State) (a : Word) : Res Word := Bus.plain.readWord s a

/-- `MemWrite(addr, 2, v)` as a whole (R42). -/
def writeWord (s : State) (a v : Word) : Res State := Bus.plain.writeWord s a v

/-! ### Registers -/

/-- D, the concatenation A:B (R22). -/
def State.d (s : State) : Word := join s.a s.b

/-- A write to D writes A and B (R22). -/
def State.setD (s : State) (v : Word) : State := { s with a := hiByte v, b := loByte v }

/-- The two accumulators (R21). -/
inductive Acc where
  | a | b
  deriving DecidableEq, Repr

/-- An accumulator's value. -/
def State.acc (s : State) : Acc → Byte
  | .a => s.a
  | .b => s.b

/-- A write to an accumulator. -/
def State.setAcc (s : State) (r : Acc) (v : Byte) : State :=
  match r with
  | .a => { s with a := v }
  | .b => { s with b := v }

/-- An 8-bit register's value (R83). -/
def State.reg8 (s : State) : Reg8 → Byte
  | .a => s.a
  | .b => s.b
  | .cc => s.cc
  | .dp => s.dp

/-- A write to an 8-bit register (R83). -/
def State.setReg8 (s : State) (r : Reg8) (v : Byte) : State :=
  match r with
  | .a => { s with a := v }
  | .b => { s with b := v }
  | .cc => { s with cc := v }
  | .dp => { s with dp := v }

/-- A 16-bit register's value (R83); PC is the address of the next instruction (R25). -/
def State.reg16 (s : State) : Reg16 → Word
  | .d => s.d
  | .x => s.x
  | .y => s.y
  | .u => s.u
  | .s => s.s
  | .pc => s.pc

/-- An instruction's load of a 16-bit register: a load of S arms NMI (R309, D18). -/
def State.load16 (s : State) (r : Reg16) (v : Word) : State :=
  match r with
  | .d => s.setD v
  | .x => { s with x := v }
  | .y => { s with y := v }
  | .u => { s with u := v }
  | .s => { s with s := v, nmiArmed := true }
  | .pc => { s with pc := v }

/-- The base register of an indexed address (R68). -/
def State.index (s : State) : IndexReg → Word
  | .x => s.x
  | .y => s.y
  | .u => s.u
  | .s => s.s

/-- Auto increment and decrement of a base register (R75, R76); of S it does not arm NMI (R309). -/
def State.setIndex (s : State) (r : IndexReg) (v : Word) : State :=
  match r with
  | .x => { s with x := v }
  | .y => { s with y := v }
  | .u => { s with u := v }
  | .s => { s with s := v }

/-! ### The stacks -/

/-- The two stack pointers (R24). -/
inductive StackReg where
  | s | u
  deriving DecidableEq, Repr

/-- A stack pointer's value. -/
def State.sp (s : State) : StackReg → Word
  | .s => s.s
  | .u => s.u

/-- A stack pointer moved by a push or a pull; of S it does not arm NMI (R309). -/
def State.setSp (s : State) (r : StackReg) (v : Word) : State :=
  match r with
  | .s => { s with s := v }
  | .u => { s with u := v }

/-- The stack pointer that bit 6 of a register list names: the one the instruction does not use (R84). -/
def State.otherSp (s : State) : StackReg → Word
  | .s => s.u
  | .u => s.s

/-- A pull of the other stack pointer: of U by PULS, of S by PULU, which arms NMI (R200, R201, R309). -/
def State.loadOtherSp (s : State) (r : StackReg) (v : Word) : State :=
  match r with
  | .s => s.load16 .u v
  | .u => s.load16 .s v

section
variable {μ : Type → Type} [Monad μ] (bus : Bus μ)

/-- `Push8(sp, v)`: decrement, then write (R48). -/
def Bus.push8 (r : StackReg) (v : Byte) (s : State) : μ State :=
  let a := s.sp r - 1
  bus.write (s.setSp r a) a v

/-- `Push16(sp, v)`: the low byte first (R48). -/
def Bus.push16 (r : StackReg) (v : Word) (s : State) : μ State := do
  let s ← bus.push8 r (loByte v) s
  bus.push8 r (hiByte v) s

/-- `Pull8(sp)`: read, then increment (R48). -/
def Bus.pull8 (r : StackReg) (s : State) : μ (Byte × State) := do
  let v ← bus.read s (s.sp r)
  return (v, s.setSp r (s.sp r + 1))

/-- `Pull16(sp)`: the high byte first (R48). -/
def Bus.pull16 (r : StackReg) (s : State) : μ (Word × State) := do
  let (h, s) ← bus.pull8 r s
  let (l, s) ← bus.pull8 r s
  return (join h l, s)

/-- Push a byte if the list names its register. -/
def Bus.pushByteIf (named : Bool) (r : StackReg) (v : Byte) (s : State) : μ State :=
  if named then bus.push8 r v s else pure s

/-- Push a word if the list names its register. -/
def Bus.pushWordIf (named : Bool) (r : StackReg) (v : Word) (s : State) : μ State :=
  if named then bus.push16 r v s else pure s

/-- Pull a byte into a register if the list names it. -/
def Bus.pullByteIf (named : Bool) (r : StackReg) (set : State → Byte → State) (s : State) : μ State :=
  if named then do
    let (v, s) ← bus.pull8 r s
    return set s v
  else pure s

/-- Pull a word into a register if the list names it. -/
def Bus.pullWordIf (named : Bool) (r : StackReg) (set : State → Word → State) (s : State) : μ State :=
  if named then do
    let (v, s) ← bus.pull16 r s
    return set s v
  else pure s

/-- The pushes of PSHS and PSHU, bit 7 of the list down to bit 0 (R84, R185, R186). The registers pushed are read before
the first push: no push changes one. -/
def Bus.pushList (r : StackReg) (l : RegList) (s : State) : μ State := do
  let s₁ ← bus.pushWordIf l.pc r s.pc s
  let s₂ ← bus.pushWordIf l.other r (s.otherSp r) s₁
  let s₃ ← bus.pushWordIf l.y r s.y s₂
  let s₄ ← bus.pushWordIf l.x r s.x s₃
  let s₅ ← bus.pushByteIf l.dp r s.dp s₄
  let s₆ ← bus.pushByteIf l.b r s.b s₅
  let s₇ ← bus.pushByteIf l.a r s.a s₆
  bus.pushByteIf l.cc r s.cc s₇

/-- The pulls of PULS and PULU, bit 0 of the list up to bit 7 (R84, R200, R201). -/
def Bus.pullList (r : StackReg) (l : RegList) (s : State) : μ State := do
  let s ← bus.pullByteIf l.cc r (fun s v => { s with cc := v }) s
  let s ← bus.pullByteIf l.a r (fun s v => { s with a := v }) s
  let s ← bus.pullByteIf l.b r (fun s v => { s with b := v }) s
  let s ← bus.pullByteIf l.dp r (fun s v => { s with dp := v }) s
  let s ← bus.pullWordIf l.x r (fun s v => { s with x := v }) s
  let s ← bus.pullWordIf l.y r (fun s v => { s with y := v }) s
  let s ← bus.pullWordIf l.other r (fun s v => s.loadOtherSp r v) s
  bus.pullWordIf l.pc r (fun s v => { s with pc := v }) s

/-! ### Exception entry and return -/

/-- The list of every register, postbyte $FF (R84, R306). -/
def RegList.all : RegList :=
  { pc := true, other := true, y := true, x := true, dp := true, b := true, a := true, cc := true }

/-- `PushEntireState()`: `PSHS PC,U,Y,X,DP,B,A,CC` (R306). -/
def Bus.pushEntireState (s : State) : μ State := bus.pushList .s RegList.all s

/-- `PushShortState()`: PC, then CC (R306). -/
def Bus.pushShortState (s : State) : μ State := do
  let s' ← bus.push16 .s s.pc s
  bus.push8 .s s.cc s'

/-- What an entry stacks (R301, R307 to R309). -/
inductive Frame where
  /-- E set, then the entire state. -/
  | entire
  /-- E cleared, then PC and CC. -/
  | short
  /-- Nothing: CWAI has stacked the entire state already (R312). -/
  | stacked
  deriving DecidableEq, Repr

/-- The stacking of an entry, E written before it (R306, R344 g). -/
def Bus.pushFrame (f : Frame) (s : State) : μ State :=
  match f with
  | .entire => bus.pushEntireState { s with cc := CC.put s.cc .e true }
  | .short => bus.pushShortState { s with cc := CC.put s.cc .e false }
  | .stacked => pure s

/-- The interrupt masks an entry sets (R303). -/
inductive MaskUpdate where
  /-- SWI2 and SWI3: neither. -/
  | keep
  /-- IRQ: I. -/
  | setI
  /-- SWI, FIRQ, NMI: I and F. -/
  | setIF
  deriving DecidableEq, Repr

/-- CC after an entry's mask update. -/
def MaskUpdate.apply (m : MaskUpdate) (cc : Byte) : Byte :=
  match m with
  | .keep => cc
  | .setI => CC.put cc .i true
  | .setIF => CC.put (CC.put cc .i true) .f true

/-- The events that have a vector (R305). -/
inductive Event where
  | swi3 | swi2 | firq | irq | swi | nmi | reset
  deriving DecidableEq, Repr

/-- The address of an event's vector (R305); $FFF0 is reserved and used by none. -/
def Event.vector : Event → Word
  | .swi3 => 0xFFF2
  | .swi2 => 0xFFF4
  | .firq => 0xFFF6
  | .irq => 0xFFF8
  | .swi => 0xFFFA
  | .nmi => 0xFFFC
  | .reset => 0xFFFE

/-- Taking an exception, software or hardware: stack the frame, set the masks, load PC from the vector, in that order
(R301, R305 to R310, R344 g). -/
def Bus.enterException (f : Frame) (m : MaskUpdate) (ev : Event) (s : State) : μ State := do
  let s ← bus.pushFrame f s
  let s := { s with cc := m.apply s.cc }
  let target ← bus.readWord s ev.vector
  return { s with pc := target }

/-- Returning from an exception (R208, R311): pull CC, then by the E bit just pulled A, B, DP, X, Y, U, PC or PC
alone. -/
def Bus.returnFromException (s : State) : μ State := do
  let (cc, s) ← bus.pull8 .s s
  let s := { s with cc := cc }
  if CC.get cc .e then bus.pullList .s { RegList.all with cc := false } s
  else do
    let (target, s) ← bus.pull16 .s s
    return { s with pc := target }

end

/-! ### The operations as a whole -/

/-- `Push8(sp, v)` (R48). -/
def push8 (r : StackReg) (v : Byte) (s : State) : Res State := Bus.plain.push8 r v s

/-- `Push16(sp, v)` (R48). -/
def push16 (r : StackReg) (v : Word) (s : State) : Res State := Bus.plain.push16 r v s

/-- `Pull8(sp)` (R48). -/
def pull8 (r : StackReg) (s : State) : Res (Byte × State) := Bus.plain.pull8 r s

/-- `Pull16(sp)` (R48). -/
def pull16 (r : StackReg) (s : State) : Res (Word × State) := Bus.plain.pull16 r s

/-! ### Reset -/

/-- `Reset()` (R340): DP, the masks, the NMI latch and arming, `run_state`, and PC from the vector at $FFFE; nothing else
is written. Machine/Reset.lean gives the states inside a step that a reset can find. -/
def resetSequence (s : State) : Res State := do
  let s := { s with dp := 0, cc := MaskUpdate.setIF.apply s.cc, nmiArmed := false, nmiPending := false,
                    runState := .running }
  let target ← readWord s Event.reset.vector
  return { s with pc := target }

/-! ### The undefined half carry -/

/-- `draw` for CC.H (R6, R13): the free value of this execution, and the state that will draw another. Log 6. -/
def State.draw (s : State) : Bool × State := (Config.freeHalfCarry s.draws, { s with draws := s.draws + 1 })

end Sys2Proof.Machine
end

