-- ==== Sys2Proof/Machine/Operands.lean ====
section
/-! DEFINITION. Operand forms (spec/30_encoding.md R63 to R82): effective addresses with their index register side effects,
and the 8-bit and 16-bit source operands. PC is the address of the next instruction throughout (R25, R77). -/

namespace Sys2Proof.Machine

/-- The address an indexed form computes before indirection, and the state with its register side effect (R68 to R78). -/
def indexedBase (m : Indexed) (s : State) : Word × State :=
  match m with
  | .offset5 r o => (s.index r + sext5 o, s)
  | .postInc1 r => (s.index r, s.setIndex r (s.index r + 1))
  | .postInc2 r _ => (s.index r, s.setIndex r (s.index r + 2))
  | .preDec1 r => (s.index r - 1, s.setIndex r (s.index r - 1))
  | .preDec2 r _ => (s.index r - 2, s.setIndex r (s.index r - 2))
  | .noOffset r _ => (s.index r, s)
  | .accB r _ => (s.index r + sext8 s.b, s)
  | .accA r _ => (s.index r + sext8 s.a, s)
  | .offset8 r o _ => (s.index r + sext8 o, s)
  | .offset16 r o _ => (s.index r + o, s)
  | .accD r _ => (s.index r + s.d, s)
  | .pcr8 _ o _ => (s.pc + sext8 o, s)
  | .pcr16 _ o _ => (s.pc + o, s)
  | .extIndirect a => (a, s)

/-- Whether an indexed form is indirect (R79); extended indirect always is (R78). -/
def indirect : Indexed → Bool
  | .offset5 _ _ => false
  | .postInc1 _ => false
  | .postInc2 _ ind => ind
  | .preDec1 _ => false
  | .preDec2 _ ind => ind
  | .noOffset _ ind => ind
  | .accB _ ind => ind
  | .accA _ ind => ind
  | .offset8 _ _ ind => ind
  | .offset16 _ _ ind => ind
  | .accD _ ind => ind
  | .pcr8 _ _ ind => ind
  | .pcr16 _ _ ind => ind
  | .extIndirect _ => true

section
variable {μ : Type → Type} [Monad μ] (bus : Bus μ)

/-- `EA(indexed)` (R68, R79): the base, or the pointer read at it, after the register side effect. -/
def Bus.indexedEA (m : Indexed) (s : State) : μ (Word × State) :=
  let (a, s') := indexedBase m s
  if indirect m then do
    let p ← bus.readWord s' a
    return (p, s')
  else pure (a, s')

/-- `EA(mode)` (R65 to R68). -/
def Bus.effectiveAddress (m : MemOperand) (s : State) : μ (Word × State) :=
  match m with
  | .direct a => pure (join s.dp a, s)
  | .indexed m => bus.indexedEA m s
  | .extended a => pure (a, s)

/-- `Operand8(mode)` (R64, R65): the operand and the state after its address was formed. -/
def Bus.operand8 (src : Src8) (s : State) : μ (Byte × State) :=
  match src with
  | .imm v => pure (v, s)
  | .mem m => do
    let (a, s) ← bus.effectiveAddress m s
    let v ← bus.read s a
    return (v, s)

/-- `Operand16(mode)` (R64, R65). -/
def Bus.operand16 (src : Src16) (s : State) : μ (Word × State) :=
  match src with
  | .imm v => pure (v, s)
  | .mem m => do
    let (a, s) ← bus.effectiveAddress m s
    let v ← bus.readWord s a
    return (v, s)

end

/-! ### The forms as a whole -/

/-- `EA(indexed)` (R68, R79). -/
def indexedEA (m : Indexed) (s : State) : Res (Word × State) := Bus.plain.indexedEA m s

/-- `EA(mode)` (R65 to R68). -/
def effectiveAddress (m : MemOperand) (s : State) : Res (Word × State) := Bus.plain.effectiveAddress m s

/-- `Operand8(mode)` (R64, R65). -/
def operand8 (src : Src8) (s : State) : Res (Byte × State) := Bus.plain.operand8 src s

/-- `Operand16(mode)` (R64, R65). -/
def operand16 (src : Src16) (s : State) : Res (Word × State) := Bus.plain.operand16 src s

end Sys2Proof.Machine
end

