-- ==== Sys2Proof/Machine/Effects.lean ====
section
/-! DEFINITION. The operations that several meanings share. An instruction's meaning starts in the state whose PC is the
address of the next instruction (R25); effective address and its register side effect come first, then the data access,
then the register write (R344 a). -/

namespace Sys2Proof.Machine

section
variable {μ : Type → Type} [Monad μ] (bus : Bus μ)

/-! ### An accumulator and an 8-bit operand -/

/-- ADD and ADC (R101 to R104): the accumulator becomes `add8` of itself, the operand and the carry in. -/
def Bus.addToAcc (r : Acc) (src : Src8) (cin : Bool) (s : State) : μ State := do
  let (m, s) ← bus.operand8 src s
  let o := add8 (s.acc r) m cin
  return { s.setAcc r o.value with cc := CC.ofSum8 s.cc o }

/-- SUB and SBC (R210, R211, R220, R221): the accumulator becomes `sub8` of itself, the operand and the borrow in; H is
drawn. -/
def Bus.subFromAcc (r : Acc) (src : Src8) (bin : Bool) (s : State) : μ State := do
  let (m, s) ← bus.operand8 src s
  let o := sub8 (s.acc r) m bin
  let (h, s) := s.draw
  return { s.setAcc r o.value with cc := CC.ofAlu8 s.cc h o }

/-- CMPA and CMPB (R120, R121): the flags of the subtraction alone; H is drawn. -/
def Bus.compareAcc (r : Acc) (src : Src8) (s : State) : μ State := do
  let (m, s) ← bus.operand8 src s
  let o := sub8 (s.acc r) m false
  let (h, s) := s.draw
  return { s with cc := CC.ofAlu8 s.cc h o }

/-- AND, OR, EOR (R106, R107, R140, R141, R182, R183): a bitwise operation into the accumulator. -/
def Bus.logicToAcc (r : Acc) (src : Src8) (op : Byte → Byte → Byte) (s : State) : μ State := do
  let (m, s) ← bus.operand8 src s
  let v := op (s.acc r) m
  return { s.setAcc r v with cc := CC.logic8 s.cc v }

/-- BIT (R115, R116): the flags of the AND alone. -/
def Bus.bitTestAcc (r : Acc) (src : Src8) (s : State) : μ State := do
  let (m, s) ← bus.operand8 src s
  return { s with cc := CC.logic8 s.cc (s.acc r &&& m) }

/-- LDA and LDB (R160, R161). -/
def Bus.loadAcc (r : Acc) (src : Src8) (s : State) : μ State := do
  let (m, s) ← bus.operand8 src s
  return { s.setAcc r m with cc := CC.logic8 s.cc m }

/-- STA and STB (R213, R214): the accumulator is read after the address is formed. -/
def Bus.storeAcc (r : Acc) (m : MemOperand) (s : State) : μ State := do
  let (a, s) ← bus.effectiveAddress m s
  let v := s.acc r
  let s ← bus.write s a v
  return { s with cc := CC.logic8 s.cc v }

/-! ### A single operand -/

/-- An operation on an accumulator: the old value and CC give the result and the new CC. -/
def modifyAcc (r : Acc) (op : Byte → Byte → Byte × Byte) (s : State) : State :=
  { s.setAcc r (op (s.acc r) s.cc).1 with cc := (op (s.acc r) s.cc).2 }

/-- A read-modify-write of a byte of memory: address, read, flags, write (R344 f). -/
def Bus.modifyMem (m : MemOperand) (op : Byte → Byte → Byte × Byte) (s : State) : μ State := do
  let (a, s) ← bus.effectiveAddress m s
  let v ← bus.read s a
  bus.write { s with cc := (op v s.cc).2 } a (op v s.cc).1

/-- An operation on an accumulator that draws H (R13). -/
def modifyAccDrawing (r : Acc) (op : Bool → Byte → Byte → Byte × Byte) (s : State) : State :=
  modifyAcc r (op s.draw.1) s.draw.2

/-- A read-modify-write that draws H (R13). -/
def Bus.modifyMemDrawing (m : MemOperand) (op : Bool → Byte → Byte → Byte × Byte) (s : State) : μ State :=
  bus.modifyMem m (op s.draw.1) s.draw.2

/-- CLR of memory (R119): the byte is not read. -/
def Bus.clearMem (m : MemOperand) (s : State) : μ State := do
  let (a, s) ← bus.effectiveAddress m s
  bus.write { s with cc := CC.clear s.cc } a 0

/-- TST of memory (R230). -/
def Bus.testMem (m : MemOperand) (s : State) : μ State := do
  let (a, s) ← bus.effectiveAddress m s
  let v ← bus.read s a
  return { s with cc := CC.logic8 s.cc v }

/-! ### A 16-bit register and a 16-bit operand -/

/-- ADDD (R105) and SUBD (R222): `op` of D and the operand into D. -/
def Bus.arithD (op : Word → Word → Alu16) (src : Src16) (s : State) : μ State := do
  let (m, s) ← bus.operand16 src s
  let o := op s.d m
  return { s.setD o.value with cc := CC.ofAlu16 s.cc o }

/-- CMPD, CMPS, CMPU, CMPX, CMPY (R122 to R126): the flags of the subtraction alone. -/
def Bus.compare16 (r : Reg16) (src : Src16) (s : State) : μ State := do
  let (m, s) ← bus.operand16 src s
  return { s with cc := CC.ofAlu16 s.cc (sub16 (s.reg16 r) m) }

/-- LDD, LDS, LDU, LDX, LDY (R162 to R166); a load of S arms NMI. -/
def Bus.loadReg16 (r : Reg16) (src : Src16) (s : State) : μ State := do
  let (m, s) ← bus.operand16 src s
  return { s.load16 r m with cc := CC.logic16 s.cc m }

/-- STD, STS, STU, STX, STY (R215 to R219): the register is read after the address is formed. -/
def Bus.storeReg16 (r : Reg16) (m : MemOperand) (s : State) : μ State := do
  let (a, s) ← bus.effectiveAddress m s
  let v := s.reg16 r
  let s ← bus.writeWord s a v
  return { s with cc := CC.logic16 s.cc v }

/-- LEAS and LEAU (R167, R168): no flag. -/
def Bus.loadAddress (r : Reg16) (m : Indexed) (s : State) : μ State := do
  let (a, s) ← bus.indexedEA m s
  return s.load16 r a

/-- LEAX and LEAY (R169, R170): Z from the address. -/
def Bus.loadAddressZ (r : Reg16) (m : Indexed) (s : State) : μ State := do
  let (a, s) ← bus.indexedEA m s
  return { s.load16 r a with cc := CC.put s.cc .z (a == 0) }

/-! ### Register pairs -/

/-- TFR (R227): R2 becomes R1. Two widths have no meaning (R83). -/
def transfer (r1 r2 : Reg) (s : State) : Res State :=
  match r1, r2 with
  | .r8 p, .r8 q => .ok (s.setReg8 q (s.reg8 p))
  | .r16 p, .r16 q => .ok (s.load16 q (s.reg16 p))
  | .r8 p, .r16 q => .error (.fault (.undefined (.registerPair (pairByte (.r8 p) (.r16 q)))))
  | .r16 p, .r8 q => .error (.fault (.undefined (.registerPair (pairByte (.r16 p) (.r8 q)))))

/-- EXG (R142): both registers are read, then R1 and R2 are written. Two widths have no meaning (R83). -/
def exchange (r1 r2 : Reg) (s : State) : Res State :=
  match r1, r2 with
  | .r8 p, .r8 q => .ok ((s.setReg8 p (s.reg8 q)).setReg8 q (s.reg8 p))
  | .r16 p, .r16 q => .ok ((s.load16 p (s.reg16 q)).load16 q (s.reg16 p))
  | .r8 p, .r16 q => .error (.fault (.undefined (.registerPair (pairByte (.r8 p) (.r16 q)))))
  | .r16 p, .r8 q => .error (.fault (.undefined (.registerPair (pairByte (.r16 p) (.r8 q)))))

/-! ### Control flow -/

/-- JMP (R146). -/
def Bus.jump (m : MemOperand) (s : State) : μ State := do
  let (a, s) ← bus.effectiveAddress m s
  return { s with pc := a }

/-- A subroutine call to `target`: the address of the next instruction is pushed on S (R147, R283, R284). -/
def Bus.call (target : Word) (s : State) : μ State := do
  let s' ← bus.push16 .s s.pc s
  return { s' with pc := target }

/-- JSR (R147): the target first, then the push. -/
def Bus.jumpToSubroutine (m : MemOperand) (s : State) : μ State := do
  let (a, s) ← bus.effectiveAddress m s
  bus.call a s

/-- RTS (R209). -/
def Bus.returnFromSubroutine (s : State) : μ State := do
  let (target, s) ← bus.pull16 .s s
  return { s with pc := target }

/-- A branch: PC plus the offset if the condition holds (R82, R250). -/
def branch (k : Cond) (o : Word) (s : State) : State :=
  if k.holds s.cc then { s with pc := s.pc + o } else s

/-! ### Waiting -/

/-- CWAI (R130): the mask into CC, E set, the entire state stacked, then the wait. -/
def Bus.waitForInterrupt (m : Byte) (s : State) : μ State := do
  let s ← bus.pushFrame .entire { s with cc := s.cc &&& m }
  return { s with runState := .cwaiWait }

end

end Sys2Proof.Machine
end

