-- ==== Sys2Proof/Machine/Arithmetic.lean ====
section
/-! DEFINITION. Meanings: addition, subtraction, comparison, negation, increment, decrement, MUL, DAA, SEX, ABX. -/

namespace Sys2Proof.Machine

variable {μ : Type → Type} [Monad μ] (bus : Bus μ)

/-- ABX (R100): B is unsigned and no flag is written. -/
def execAbx (s : State) : Host.Outcome State Fault Refusal :=
  .next { s with x := s.x + zext8 s.b }

/-- ADCA (R101). -/
def Bus.adca (src : Src8) (s : State) : μ State :=
  bus.addToAcc .a src (CC.get s.cc .c) s

/-- ADCA as a whole (R101). -/
def execAdca (src : Src8) (s : State) : Host.Outcome State Fault Refusal :=
  finish (Bus.plain.adca src s)

/-- ADCB (R102). -/
def Bus.adcb (src : Src8) (s : State) : μ State :=
  bus.addToAcc .b src (CC.get s.cc .c) s

/-- ADCB as a whole (R102). -/
def execAdcb (src : Src8) (s : State) : Host.Outcome State Fault Refusal :=
  finish (Bus.plain.adcb src s)

/-- ADDA (R103). -/
def Bus.adda (src : Src8) (s : State) : μ State :=
  bus.addToAcc .a src false s

/-- ADDA as a whole (R103). -/
def execAdda (src : Src8) (s : State) : Host.Outcome State Fault Refusal :=
  finish (Bus.plain.adda src s)

/-- ADDB (R104). -/
def Bus.addb (src : Src8) (s : State) : μ State :=
  bus.addToAcc .b src false s

/-- ADDB as a whole (R104). -/
def execAddb (src : Src8) (s : State) : Host.Outcome State Fault Refusal :=
  finish (Bus.plain.addb src s)

/-- ADDD (R105). -/
def Bus.addd (src : Src16) (s : State) : μ State :=
  bus.arithD add16 src s

/-- ADDD as a whole (R105). -/
def execAddd (src : Src16) (s : State) : Host.Outcome State Fault Refusal :=
  finish (Bus.plain.addd src s)

/-- CMPA (R120). -/
def Bus.cmpa (src : Src8) (s : State) : μ State :=
  bus.compareAcc .a src s

/-- CMPA as a whole (R120). -/
def execCmpa (src : Src8) (s : State) : Host.Outcome State Fault Refusal :=
  finish (Bus.plain.cmpa src s)

/-- CMPB (R121). -/
def Bus.cmpb (src : Src8) (s : State) : μ State :=
  bus.compareAcc .b src s

/-- CMPB as a whole (R121). -/
def execCmpb (src : Src8) (s : State) : Host.Outcome State Fault Refusal :=
  finish (Bus.plain.cmpb src s)

/-- CMPD (R122). -/
def Bus.cmpd (src : Src16) (s : State) : μ State :=
  bus.compare16 .d src s

/-- CMPD as a whole (R122). -/
def execCmpd (src : Src16) (s : State) : Host.Outcome State Fault Refusal :=
  finish (Bus.plain.cmpd src s)

/-- CMPS (R123). -/
def Bus.cmps (src : Src16) (s : State) : μ State :=
  bus.compare16 .s src s

/-- CMPS as a whole (R123). -/
def execCmps (src : Src16) (s : State) : Host.Outcome State Fault Refusal :=
  finish (Bus.plain.cmps src s)

/-- CMPU (R124). -/
def Bus.cmpu (src : Src16) (s : State) : μ State :=
  bus.compare16 .u src s

/-- CMPU as a whole (R124). -/
def execCmpu (src : Src16) (s : State) : Host.Outcome State Fault Refusal :=
  finish (Bus.plain.cmpu src s)

/-- CMPX (R125). -/
def Bus.cmpx (src : Src16) (s : State) : μ State :=
  bus.compare16 .x src s

/-- CMPX as a whole (R125). -/
def execCmpx (src : Src16) (s : State) : Host.Outcome State Fault Refusal :=
  finish (Bus.plain.cmpx src s)

/-- CMPY (R126). -/
def Bus.cmpy (src : Src16) (s : State) : μ State :=
  bus.compare16 .y src s

/-- CMPY as a whole (R126). -/
def execCmpy (src : Src16) (s : State) : Host.Outcome State Fault Refusal :=
  finish (Bus.plain.cmpy src s)

/-- DAA (R131): V is cleared (D25, log 14). -/
def execDaa (s : State) : Host.Outcome State Fault Refusal :=
  .next (modifyAcc .a daa8 s)

/-- DECA (R132). -/
def execDeca (s : State) : Host.Outcome State Fault Refusal :=
  .next (modifyAcc .a dec8 s)

/-- DECB (R133). -/
def execDecb (s : State) : Host.Outcome State Fault Refusal :=
  .next (modifyAcc .b dec8 s)

/-- DEC (R134). -/
def Bus.dec (m : MemOperand) (s : State) : μ State :=
  bus.modifyMem m dec8 s

/-- DEC as a whole (R134). -/
def execDec (m : MemOperand) (s : State) : Host.Outcome State Fault Refusal :=
  finish (Bus.plain.dec m s)

/-- INCA (R143). -/
def execInca (s : State) : Host.Outcome State Fault Refusal :=
  .next (modifyAcc .a inc8 s)

/-- INCB (R144). -/
def execIncb (s : State) : Host.Outcome State Fault Refusal :=
  .next (modifyAcc .b inc8 s)

/-- INC (R145). -/
def Bus.inc (m : MemOperand) (s : State) : μ State :=
  bus.modifyMem m inc8 s

/-- INC as a whole (R145). -/
def execInc (m : MemOperand) (s : State) : Host.Outcome State Fault Refusal :=
  finish (Bus.plain.inc m s)

/-- MUL (R177): C is bit 7 of the product. -/
def execMul (s : State) : Host.Outcome State Fault Refusal :=
  let p := BitVec.ofNat 16 (s.a.toNat * s.b.toNat)
  .next { s.setD p with cc := CC.put (CC.put s.cc .z (p == 0)) .c (p.getLsbD 7) }

/-- NEGA (R178). -/
def execNega (s : State) : Host.Outcome State Fault Refusal :=
  .next (modifyAccDrawing .a neg8 s)

/-- NEGB (R179). -/
def execNegb (s : State) : Host.Outcome State Fault Refusal :=
  .next (modifyAccDrawing .b neg8 s)

/-- NEG (R180). -/
def Bus.neg (m : MemOperand) (s : State) : μ State :=
  bus.modifyMemDrawing m neg8 s

/-- NEG as a whole (R180). -/
def execNeg (m : MemOperand) (s : State) : Host.Outcome State Fault Refusal :=
  finish (Bus.plain.neg m s)

/-- SBCA (R210). -/
def Bus.sbca (src : Src8) (s : State) : μ State :=
  bus.subFromAcc .a src (CC.get s.cc .c) s

/-- SBCA as a whole (R210). -/
def execSbca (src : Src8) (s : State) : Host.Outcome State Fault Refusal :=
  finish (Bus.plain.sbca src s)

/-- SBCB (R211). -/
def Bus.sbcb (src : Src8) (s : State) : μ State :=
  bus.subFromAcc .b src (CC.get s.cc .c) s

/-- SBCB as a whole (R211). -/
def execSbcb (src : Src8) (s : State) : Host.Outcome State Fault Refusal :=
  finish (Bus.plain.sbcb src s)

/-- SEX (R212): V is cleared (D25, log 14). -/
def execSex (s : State) : Host.Outcome State Fault Refusal :=
  .next { s with a := if s.b.msb then 0xFF else 0x00, cc := CC.putNZV s.cc s.b.msb (s.b == 0) false }

/-- SUBA (R220). -/
def Bus.suba (src : Src8) (s : State) : μ State :=
  bus.subFromAcc .a src false s

/-- SUBA as a whole (R220). -/
def execSuba (src : Src8) (s : State) : Host.Outcome State Fault Refusal :=
  finish (Bus.plain.suba src s)

/-- SUBB (R221). -/
def Bus.subb (src : Src8) (s : State) : μ State :=
  bus.subFromAcc .b src false s

/-- SUBB as a whole (R221). -/
def execSubb (src : Src8) (s : State) : Host.Outcome State Fault Refusal :=
  finish (Bus.plain.subb src s)

/-- SUBD (R222). -/
def Bus.subd (src : Src16) (s : State) : μ State :=
  bus.arithD sub16 src s

/-- SUBD as a whole (R222). -/
def execSubd (src : Src16) (s : State) : Host.Outcome State Fault Refusal :=
  finish (Bus.plain.subd src s)

end Sys2Proof.Machine
end

