-- ==== Sys2Proof/Machine/Control.lean ====
section
/-! DEFINITION. Meanings: jumps, calls, returns from a subroutine and branches. -/

namespace Sys2Proof.Machine

variable {μ : Type → Type} [Monad μ] (bus : Bus μ)

/-- JMP (R146). -/
def Bus.jmp (m : MemOperand) (s : State) : μ State :=
  bus.jump m s

/-- JMP as a whole (R146). -/
def execJmp (m : MemOperand) (s : State) : Host.Outcome State Fault Refusal :=
  finish (Bus.plain.jmp m s)

/-- JSR (R147). -/
def Bus.jsr (m : MemOperand) (s : State) : μ State :=
  bus.jumpToSubroutine m s

/-- JSR as a whole (R147). -/
def execJsr (m : MemOperand) (s : State) : Host.Outcome State Fault Refusal :=
  finish (Bus.plain.jsr m s)

/-- RTS (R209). -/
def Bus.rts (s : State) : μ State :=
  bus.returnFromSubroutine s

/-- RTS as a whole (R209). -/
def execRts (s : State) : Host.Outcome State Fault Refusal :=
  finish (Bus.plain.rts s)

/-- BCC (R251). -/
def execBcc (o : Byte) (s : State) : Host.Outcome State Fault Refusal :=
  .next (branch .cc (sext8 o) s)

/-- LBCC (R252). -/
def execLbcc (o : Word) (s : State) : Host.Outcome State Fault Refusal :=
  .next (branch .cc o s)

/-- BCS (R253). -/
def execBcs (o : Byte) (s : State) : Host.Outcome State Fault Refusal :=
  .next (branch .cs (sext8 o) s)

/-- LBCS (R254). -/
def execLbcs (o : Word) (s : State) : Host.Outcome State Fault Refusal :=
  .next (branch .cs o s)

/-- BEQ (R255). -/
def execBeq (o : Byte) (s : State) : Host.Outcome State Fault Refusal :=
  .next (branch .eq (sext8 o) s)

/-- LBEQ (R256). -/
def execLbeq (o : Word) (s : State) : Host.Outcome State Fault Refusal :=
  .next (branch .eq o s)

/-- BGE (R257). -/
def execBge (o : Byte) (s : State) : Host.Outcome State Fault Refusal :=
  .next (branch .ge (sext8 o) s)

/-- LBGE (R258). -/
def execLbge (o : Word) (s : State) : Host.Outcome State Fault Refusal :=
  .next (branch .ge o s)

/-- BGT (R259). -/
def execBgt (o : Byte) (s : State) : Host.Outcome State Fault Refusal :=
  .next (branch .gt (sext8 o) s)

/-- LBGT (R260). -/
def execLbgt (o : Word) (s : State) : Host.Outcome State Fault Refusal :=
  .next (branch .gt o s)

/-- BHI (R261). -/
def execBhi (o : Byte) (s : State) : Host.Outcome State Fault Refusal :=
  .next (branch .hi (sext8 o) s)

/-- LBHI (R262). -/
def execLbhi (o : Word) (s : State) : Host.Outcome State Fault Refusal :=
  .next (branch .hi o s)

/-- BHS, second name of BCC (R263). -/
def execBhs (o : Byte) (s : State) : Host.Outcome State Fault Refusal :=
  .next (branch .cc (sext8 o) s)

/-- LBHS, second name of LBCC (R264). -/
def execLbhs (o : Word) (s : State) : Host.Outcome State Fault Refusal :=
  .next (branch .cc o s)

/-- BLE (R265). -/
def execBle (o : Byte) (s : State) : Host.Outcome State Fault Refusal :=
  .next (branch .le (sext8 o) s)

/-- LBLE (R266). -/
def execLble (o : Word) (s : State) : Host.Outcome State Fault Refusal :=
  .next (branch .le o s)

/-- BLO, second name of BCS (R267). -/
def execBlo (o : Byte) (s : State) : Host.Outcome State Fault Refusal :=
  .next (branch .cs (sext8 o) s)

/-- LBLO, second name of LBCS (R268). -/
def execLblo (o : Word) (s : State) : Host.Outcome State Fault Refusal :=
  .next (branch .cs o s)

/-- BLS (R269). -/
def execBls (o : Byte) (s : State) : Host.Outcome State Fault Refusal :=
  .next (branch .ls (sext8 o) s)

/-- LBLS (R270). -/
def execLbls (o : Word) (s : State) : Host.Outcome State Fault Refusal :=
  .next (branch .ls o s)

/-- BLT (R271). -/
def execBlt (o : Byte) (s : State) : Host.Outcome State Fault Refusal :=
  .next (branch .lt (sext8 o) s)

/-- LBLT (R272). -/
def execLblt (o : Word) (s : State) : Host.Outcome State Fault Refusal :=
  .next (branch .lt o s)

/-- BMI (R273). -/
def execBmi (o : Byte) (s : State) : Host.Outcome State Fault Refusal :=
  .next (branch .mi (sext8 o) s)

/-- LBMI (R274). -/
def execLbmi (o : Word) (s : State) : Host.Outcome State Fault Refusal :=
  .next (branch .mi o s)

/-- BNE (R275). -/
def execBne (o : Byte) (s : State) : Host.Outcome State Fault Refusal :=
  .next (branch .ne (sext8 o) s)

/-- LBNE (R276). -/
def execLbne (o : Word) (s : State) : Host.Outcome State Fault Refusal :=
  .next (branch .ne o s)

/-- BPL (R277). -/
def execBpl (o : Byte) (s : State) : Host.Outcome State Fault Refusal :=
  .next (branch .pl (sext8 o) s)

/-- LBPL (R278). -/
def execLbpl (o : Word) (s : State) : Host.Outcome State Fault Refusal :=
  .next (branch .pl o s)

/-- BRA (R279). -/
def execBra (o : Byte) (s : State) : Host.Outcome State Fault Refusal :=
  .next (branch .always (sext8 o) s)

/-- LBRA (R280). -/
def execLbra (o : Word) (s : State) : Host.Outcome State Fault Refusal :=
  .next (branch .always o s)

/-- BRN (R281). -/
def execBrn (o : Byte) (s : State) : Host.Outcome State Fault Refusal :=
  .next (branch .never (sext8 o) s)

/-- LBRN (R282). -/
def execLbrn (o : Word) (s : State) : Host.Outcome State Fault Refusal :=
  .next (branch .never o s)

/-- BSR (R283). -/
def Bus.bsr (o : Byte) (s : State) : μ State :=
  bus.call (s.pc + sext8 o) s

/-- BSR as a whole (R283). -/
def execBsr (o : Byte) (s : State) : Host.Outcome State Fault Refusal :=
  finish (Bus.plain.bsr o s)

/-- LBSR (R284). -/
def Bus.lbsr (o : Word) (s : State) : μ State :=
  bus.call (s.pc + o) s

/-- LBSR as a whole (R284). -/
def execLbsr (o : Word) (s : State) : Host.Outcome State Fault Refusal :=
  finish (Bus.plain.lbsr o s)

/-- BVC (R285). -/
def execBvc (o : Byte) (s : State) : Host.Outcome State Fault Refusal :=
  .next (branch .vc (sext8 o) s)

/-- LBVC (R286). -/
def execLbvc (o : Word) (s : State) : Host.Outcome State Fault Refusal :=
  .next (branch .vc o s)

/-- BVS (R287). -/
def execBvs (o : Byte) (s : State) : Host.Outcome State Fault Refusal :=
  .next (branch .vs (sext8 o) s)

/-- LBVS (R288). -/
def execLbvs (o : Word) (s : State) : Host.Outcome State Fault Refusal :=
  .next (branch .vs o s)

end Sys2Proof.Machine
end

