-- ==== Sys2Proof/Machine/LoadStore.lean ====
section
/-! DEFINITION. Meanings: loads, stores and load effective address. -/

namespace Sys2Proof.Machine

variable {μ : Type → Type} [Monad μ] (bus : Bus μ)

/-- LDA (R160). -/
def Bus.lda (src : Src8) (s : State) : μ State :=
  bus.loadAcc .a src s

/-- LDA as a whole (R160). -/
def execLda (src : Src8) (s : State) : Host.Outcome State Fault Refusal :=
  finish (Bus.plain.lda src s)

/-- LDB (R161). -/
def Bus.ldb (src : Src8) (s : State) : μ State :=
  bus.loadAcc .b src s

/-- LDB as a whole (R161). -/
def execLdb (src : Src8) (s : State) : Host.Outcome State Fault Refusal :=
  finish (Bus.plain.ldb src s)

/-- LDD (R162). -/
def Bus.ldd (src : Src16) (s : State) : μ State :=
  bus.loadReg16 .d src s

/-- LDD as a whole (R162). -/
def execLdd (src : Src16) (s : State) : Host.Outcome State Fault Refusal :=
  finish (Bus.plain.ldd src s)

/-- LDS (R163): arms NMI. -/
def Bus.lds (src : Src16) (s : State) : μ State :=
  bus.loadReg16 .s src s

/-- LDS as a whole (R163). -/
def execLds (src : Src16) (s : State) : Host.Outcome State Fault Refusal :=
  finish (Bus.plain.lds src s)

/-- LDU (R164). -/
def Bus.ldu (src : Src16) (s : State) : μ State :=
  bus.loadReg16 .u src s

/-- LDU as a whole (R164). -/
def execLdu (src : Src16) (s : State) : Host.Outcome State Fault Refusal :=
  finish (Bus.plain.ldu src s)

/-- LDX (R165). -/
def Bus.ldx (src : Src16) (s : State) : μ State :=
  bus.loadReg16 .x src s

/-- LDX as a whole (R165). -/
def execLdx (src : Src16) (s : State) : Host.Outcome State Fault Refusal :=
  finish (Bus.plain.ldx src s)

/-- LDY (R166). -/
def Bus.ldy (src : Src16) (s : State) : μ State :=
  bus.loadReg16 .y src s

/-- LDY as a whole (R166). -/
def execLdy (src : Src16) (s : State) : Host.Outcome State Fault Refusal :=
  finish (Bus.plain.ldy src s)

/-- LEAS (R167): arms NMI. -/
def Bus.leas (m : Indexed) (s : State) : μ State :=
  bus.loadAddress .s m s

/-- LEAS as a whole (R167). -/
def execLeas (m : Indexed) (s : State) : Host.Outcome State Fault Refusal :=
  finish (Bus.plain.leas m s)

/-- LEAU (R168). -/
def Bus.leau (m : Indexed) (s : State) : μ State :=
  bus.loadAddress .u m s

/-- LEAU as a whole (R168). -/
def execLeau (m : Indexed) (s : State) : Host.Outcome State Fault Refusal :=
  finish (Bus.plain.leau m s)

/-- LEAX (R169). -/
def Bus.leax (m : Indexed) (s : State) : μ State :=
  bus.loadAddressZ .x m s

/-- LEAX as a whole (R169). -/
def execLeax (m : Indexed) (s : State) : Host.Outcome State Fault Refusal :=
  finish (Bus.plain.leax m s)

/-- LEAY (R170). -/
def Bus.leay (m : Indexed) (s : State) : μ State :=
  bus.loadAddressZ .y m s

/-- LEAY as a whole (R170). -/
def execLeay (m : Indexed) (s : State) : Host.Outcome State Fault Refusal :=
  finish (Bus.plain.leay m s)

/-- STA (R213). -/
def Bus.sta (m : MemOperand) (s : State) : μ State :=
  bus.storeAcc .a m s

/-- STA as a whole (R213). -/
def execSta (m : MemOperand) (s : State) : Host.Outcome State Fault Refusal :=
  finish (Bus.plain.sta m s)

/-- STB (R214). -/
def Bus.stb (m : MemOperand) (s : State) : μ State :=
  bus.storeAcc .b m s

/-- STB as a whole (R214). -/
def execStb (m : MemOperand) (s : State) : Host.Outcome State Fault Refusal :=
  finish (Bus.plain.stb m s)

/-- STD (R215). -/
def Bus.std (m : MemOperand) (s : State) : μ State :=
  bus.storeReg16 .d m s

/-- STD as a whole (R215). -/
def execStd (m : MemOperand) (s : State) : Host.Outcome State Fault Refusal :=
  finish (Bus.plain.std m s)

/-- STS (R216). -/
def Bus.sts (m : MemOperand) (s : State) : μ State :=
  bus.storeReg16 .s m s

/-- STS as a whole (R216). -/
def execSts (m : MemOperand) (s : State) : Host.Outcome State Fault Refusal :=
  finish (Bus.plain.sts m s)

/-- STU (R217). -/
def Bus.stu (m : MemOperand) (s : State) : μ State :=
  bus.storeReg16 .u m s

/-- STU as a whole (R217). -/
def execStu (m : MemOperand) (s : State) : Host.Outcome State Fault Refusal :=
  finish (Bus.plain.stu m s)

/-- STX (R218). -/
def Bus.stx (m : MemOperand) (s : State) : μ State :=
  bus.storeReg16 .x m s

/-- STX as a whole (R218). -/
def execStx (m : MemOperand) (s : State) : Host.Outcome State Fault Refusal :=
  finish (Bus.plain.stx m s)

/-- STY (R219). -/
def Bus.sty (m : MemOperand) (s : State) : μ State :=
  bus.storeReg16 .y m s

/-- STY as a whole (R219). -/
def execSty (m : MemOperand) (s : State) : Host.Outcome State Fault Refusal :=
  finish (Bus.plain.sty m s)

end Sys2Proof.Machine
end

