-- ==== Sys2Proof/Machine/Logic.lean ====
section
/-! DEFINITION. Meanings: AND, OR, EOR, BIT, COM, CLR, TST, and ANDCC and ORCC. -/

namespace Sys2Proof.Machine

variable {μ : Type → Type} [Monad μ] (bus : Bus μ)

/-- ANDA (R106). -/
def Bus.anda (src : Src8) (s : State) : μ State :=
  bus.logicToAcc .a src (fun p q => p &&& q) s

/-- ANDA as a whole (R106). -/
def execAnda (src : Src8) (s : State) : Host.Outcome State Fault Refusal :=
  finish (Bus.plain.anda src s)

/-- ANDB (R107). -/
def Bus.andb (src : Src8) (s : State) : μ State :=
  bus.logicToAcc .b src (fun p q => p &&& q) s

/-- ANDB as a whole (R107). -/
def execAndb (src : Src8) (s : State) : Host.Outcome State Fault Refusal :=
  finish (Bus.plain.andb src s)

/-- ANDCC (R108). -/
def execAndcc (m : Byte) (s : State) : Host.Outcome State Fault Refusal :=
  .next { s with cc := s.cc &&& m }

/-- BITA (R115). -/
def Bus.bita (src : Src8) (s : State) : μ State :=
  bus.bitTestAcc .a src s

/-- BITA as a whole (R115). -/
def execBita (src : Src8) (s : State) : Host.Outcome State Fault Refusal :=
  finish (Bus.plain.bita src s)

/-- BITB (R116). -/
def Bus.bitb (src : Src8) (s : State) : μ State :=
  bus.bitTestAcc .b src s

/-- BITB as a whole (R116). -/
def execBitb (src : Src8) (s : State) : Host.Outcome State Fault Refusal :=
  finish (Bus.plain.bitb src s)

/-- CLRA (R117). -/
def execClra (s : State) : Host.Outcome State Fault Refusal :=
  .next { s.setAcc .a 0 with cc := CC.clear s.cc }

/-- CLRB (R118). -/
def execClrb (s : State) : Host.Outcome State Fault Refusal :=
  .next { s.setAcc .b 0 with cc := CC.clear s.cc }

/-- CLR (R119). -/
def Bus.clr (m : MemOperand) (s : State) : μ State :=
  bus.clearMem m s

/-- CLR as a whole (R119). -/
def execClr (m : MemOperand) (s : State) : Host.Outcome State Fault Refusal :=
  finish (Bus.plain.clr m s)

/-- COMA (R127). -/
def execComa (s : State) : Host.Outcome State Fault Refusal :=
  .next (modifyAcc .a com8 s)

/-- COMB (R128). -/
def execComb (s : State) : Host.Outcome State Fault Refusal :=
  .next (modifyAcc .b com8 s)

/-- COM (R129). -/
def Bus.com (m : MemOperand) (s : State) : μ State :=
  bus.modifyMem m com8 s

/-- COM as a whole (R129). -/
def execCom (m : MemOperand) (s : State) : Host.Outcome State Fault Refusal :=
  finish (Bus.plain.com m s)

/-- EORA (R140). -/
def Bus.eora (src : Src8) (s : State) : μ State :=
  bus.logicToAcc .a src (fun p q => p ^^^ q) s

/-- EORA as a whole (R140). -/
def execEora (src : Src8) (s : State) : Host.Outcome State Fault Refusal :=
  finish (Bus.plain.eora src s)

/-- EORB (R141). -/
def Bus.eorb (src : Src8) (s : State) : μ State :=
  bus.logicToAcc .b src (fun p q => p ^^^ q) s

/-- EORB as a whole (R141). -/
def execEorb (src : Src8) (s : State) : Host.Outcome State Fault Refusal :=
  finish (Bus.plain.eorb src s)

/-- ORA (R182). -/
def Bus.ora (src : Src8) (s : State) : μ State :=
  bus.logicToAcc .a src (fun p q => p ||| q) s

/-- ORA as a whole (R182). -/
def execOra (src : Src8) (s : State) : Host.Outcome State Fault Refusal :=
  finish (Bus.plain.ora src s)

/-- ORB (R183). -/
def Bus.orb (src : Src8) (s : State) : μ State :=
  bus.logicToAcc .b src (fun p q => p ||| q) s

/-- ORB as a whole (R183). -/
def execOrb (src : Src8) (s : State) : Host.Outcome State Fault Refusal :=
  finish (Bus.plain.orb src s)

/-- ORCC (R184). -/
def execOrcc (m : Byte) (s : State) : Host.Outcome State Fault Refusal :=
  .next { s with cc := s.cc ||| m }

/-- TSTA (R228). -/
def execTsta (s : State) : Host.Outcome State Fault Refusal :=
  .next { s with cc := CC.logic8 s.cc s.a }

/-- TSTB (R229). -/
def execTstb (s : State) : Host.Outcome State Fault Refusal :=
  .next { s with cc := CC.logic8 s.cc s.b }

/-- TST (R230). -/
def Bus.tst (m : MemOperand) (s : State) : μ State :=
  bus.testMem m s

/-- TST as a whole (R230). -/
def execTst (m : MemOperand) (s : State) : Host.Outcome State Fault Refusal :=
  finish (Bus.plain.tst m s)

end Sys2Proof.Machine
end

