-- ==== Sys2Proof/Machine/Shift.lean ====
section
/-! DEFINITION. Meanings: shifts and rotates. -/

namespace Sys2Proof.Machine

variable {μ : Type → Type} [Monad μ] (bus : Bus μ)

/-- ASLA (R109). -/
def execAsla (s : State) : Host.Outcome State Fault Refusal :=
  .next (modifyAccDrawing .a asl8 s)

/-- ASLB (R110). -/
def execAslb (s : State) : Host.Outcome State Fault Refusal :=
  .next (modifyAccDrawing .b asl8 s)

/-- ASL (R111). -/
def Bus.asl (m : MemOperand) (s : State) : μ State :=
  bus.modifyMemDrawing m asl8 s

/-- ASL as a whole (R111). -/
def execAsl (m : MemOperand) (s : State) : Host.Outcome State Fault Refusal :=
  finish (Bus.plain.asl m s)

/-- ASRA (R112). -/
def execAsra (s : State) : Host.Outcome State Fault Refusal :=
  .next (modifyAccDrawing .a asr8 s)

/-- ASRB (R113). -/
def execAsrb (s : State) : Host.Outcome State Fault Refusal :=
  .next (modifyAccDrawing .b asr8 s)

/-- ASR (R114). -/
def Bus.asr (m : MemOperand) (s : State) : μ State :=
  bus.modifyMemDrawing m asr8 s

/-- ASR as a whole (R114). -/
def execAsr (m : MemOperand) (s : State) : Host.Outcome State Fault Refusal :=
  finish (Bus.plain.asr m s)

/-- LSLA, second name of ASLA (R171). -/
def execLsla (s : State) : Host.Outcome State Fault Refusal :=
  .next (modifyAccDrawing .a asl8 s)

/-- LSLB, second name of ASLB (R172). -/
def execLslb (s : State) : Host.Outcome State Fault Refusal :=
  .next (modifyAccDrawing .b asl8 s)

/-- LSL, second name of ASL (R173). -/
def Bus.lsl (m : MemOperand) (s : State) : μ State :=
  bus.modifyMemDrawing m asl8 s

/-- LSL as a whole (R173). -/
def execLsl (m : MemOperand) (s : State) : Host.Outcome State Fault Refusal :=
  finish (Bus.plain.lsl m s)

/-- LSRA (R174). -/
def execLsra (s : State) : Host.Outcome State Fault Refusal :=
  .next (modifyAcc .a lsr8 s)

/-- LSRB (R175). -/
def execLsrb (s : State) : Host.Outcome State Fault Refusal :=
  .next (modifyAcc .b lsr8 s)

/-- LSR (R176). -/
def Bus.lsr (m : MemOperand) (s : State) : μ State :=
  bus.modifyMem m lsr8 s

/-- LSR as a whole (R176). -/
def execLsr (m : MemOperand) (s : State) : Host.Outcome State Fault Refusal :=
  finish (Bus.plain.lsr m s)

/-- ROLA (R202). -/
def execRola (s : State) : Host.Outcome State Fault Refusal :=
  .next (modifyAcc .a rol8 s)

/-- ROLB (R203). -/
def execRolb (s : State) : Host.Outcome State Fault Refusal :=
  .next (modifyAcc .b rol8 s)

/-- ROL (R204). -/
def Bus.rol (m : MemOperand) (s : State) : μ State :=
  bus.modifyMem m rol8 s

/-- ROL as a whole (R204). -/
def execRol (m : MemOperand) (s : State) : Host.Outcome State Fault Refusal :=
  finish (Bus.plain.rol m s)

/-- RORA (R205). -/
def execRora (s : State) : Host.Outcome State Fault Refusal :=
  .next (modifyAcc .a ror8 s)

/-- RORB (R206). -/
def execRorb (s : State) : Host.Outcome State Fault Refusal :=
  .next (modifyAcc .b ror8 s)

/-- ROR (R207). -/
def Bus.ror (m : MemOperand) (s : State) : μ State :=
  bus.modifyMem m ror8 s

/-- ROR as a whole (R207). -/
def execRor (m : MemOperand) (s : State) : Host.Outcome State Fault Refusal :=
  finish (Bus.plain.ror m s)

end Sys2Proof.Machine
end

