-- ==== Sys2Proof/Machine/System.lean ====
section
/-! DEFINITION. Meanings: NOP, the software interrupts, RTI, CWAI and SYNC. -/

namespace Sys2Proof.Machine

variable {μ : Type → Type} [Monad μ] (bus : Bus μ)

/-- CWAI (R130): the wait ends at a later sampling point (R312). -/
def Bus.cwai (m : Byte) (s : State) : μ State :=
  bus.waitForInterrupt m s

/-- CWAI as a whole (R130). -/
def execCwai (m : Byte) (s : State) : Host.Outcome State Fault Refusal :=
  finish (Bus.plain.cwai m s)

/-- NOP (R181). -/
def execNop (s : State) : Host.Outcome State Fault Refusal :=
  .next s

/-- RTI (R208). -/
def Bus.rti (s : State) : μ State :=
  bus.returnFromException s

/-- RTI as a whole (R208). -/
def execRti (s : State) : Host.Outcome State Fault Refusal :=
  finish (Bus.plain.rti s)

/-- SWI (R223): the frame with E set, then I and F, then the vector at $FFFA. -/
def Bus.swi (s : State) : μ State :=
  bus.enterException .entire .setIF .swi s

/-- SWI as a whole (R223). -/
def execSwi (s : State) : Host.Outcome State Fault Refusal :=
  finish (Bus.plain.swi s)

/-- SWI2 (R224): the frame with E set, I and F unchanged, the vector at $FFF4. -/
def Bus.swi2 (s : State) : μ State :=
  bus.enterException .entire .keep .swi2 s

/-- SWI2 as a whole (R224). -/
def execSwi2 (s : State) : Host.Outcome State Fault Refusal :=
  finish (Bus.plain.swi2 s)

/-- SWI3 (R225): the frame with E set, I and F unchanged, the vector at $FFF2. -/
def Bus.swi3 (s : State) : μ State :=
  bus.enterException .entire .keep .swi3 s

/-- SWI3 as a whole (R225). -/
def execSwi3 (s : State) : Host.Outcome State Fault Refusal :=
  finish (Bus.plain.swi3 s)

/-- SYNC (R226): the wait ends at a later sampling point (R313). -/
def execSync (s : State) : Host.Outcome State Fault Refusal :=
  .next { s with runState := .syncWait }

end Sys2Proof.Machine
end

