-- ==== Sys2Proof/Machine/Transfer.lean ====
section
/-! DEFINITION. Meanings: TFR, EXG, and the pushes and pulls of a register list. -/

namespace Sys2Proof.Machine

variable {μ : Type → Type} [Monad μ] (bus : Bus μ)

/-- EXG (R142): an ill-formed pair, which the decoder never gives, faults (log 18). -/
def execExg (r1 r2 : Reg) (s : State) : Host.Outcome State Fault Refusal :=
  finish (exchange r1 r2 s)

/-- PSHS (R185). -/
def Bus.pshs (l : RegList) (s : State) : μ State :=
  bus.pushList .s l s

/-- PSHS as a whole (R185). -/
def execPshs (l : RegList) (s : State) : Host.Outcome State Fault Refusal :=
  finish (Bus.plain.pshs l s)

/-- PSHU (R186). -/
def Bus.pshu (l : RegList) (s : State) : μ State :=
  bus.pushList .u l s

/-- PSHU as a whole (R186). -/
def execPshu (l : RegList) (s : State) : Host.Outcome State Fault Refusal :=
  finish (Bus.plain.pshu l s)

/-- PULS (R200). -/
def Bus.puls (l : RegList) (s : State) : μ State :=
  bus.pullList .s l s

/-- PULS as a whole (R200). -/
def execPuls (l : RegList) (s : State) : Host.Outcome State Fault Refusal :=
  finish (Bus.plain.puls l s)

/-- PULU (R201): a pull of S arms NMI. -/
def Bus.pulu (l : RegList) (s : State) : μ State :=
  bus.pullList .u l s

/-- PULU as a whole (R201). -/
def execPulu (l : RegList) (s : State) : Host.Outcome State Fault Refusal :=
  finish (Bus.plain.pulu l s)

/-- TFR (R227): an ill-formed pair, which the decoder never gives, faults (log 18). -/
def execTfr (r1 r2 : Reg) (s : State) : Host.Outcome State Fault Refusal :=
  finish (transfer r1 r2 s)

end Sys2Proof.Machine
end

