-- ==== Sys2Proof/Machine/Dispatch.lean ====
section
/-! DEFINITION. One arm for each constructor of Instr: the meaning of the instruction. -/

namespace Sys2Proof.Machine

/-- The effect of an instruction on the state whose PC is the address of the next instruction (R25, log 1). -/
def exec (i : Instr) (s : State) : Host.Outcome State Fault Refusal :=
  match i with
  | .abx => Sys2Proof.Machine.execAbx s
  | .adca src => Sys2Proof.Machine.execAdca src s
  | .adcb src => Sys2Proof.Machine.execAdcb src s
  | .adda src => Sys2Proof.Machine.execAdda src s
  | .addb src => Sys2Proof.Machine.execAddb src s
  | .addd src => Sys2Proof.Machine.execAddd src s
  | .anda src => Sys2Proof.Machine.execAnda src s
  | .andb src => Sys2Proof.Machine.execAndb src s
  | .andcc m => Sys2Proof.Machine.execAndcc m s
  | .asla => Sys2Proof.Machine.execAsla s
  | .aslb => Sys2Proof.Machine.execAslb s
  | .asl m => Sys2Proof.Machine.execAsl m s
  | .asra => Sys2Proof.Machine.execAsra s
  | .asrb => Sys2Proof.Machine.execAsrb s
  | .asr m => Sys2Proof.Machine.execAsr m s
  | .bita src => Sys2Proof.Machine.execBita src s
  | .bitb src => Sys2Proof.Machine.execBitb src s
  | .clra => Sys2Proof.Machine.execClra s
  | .clrb => Sys2Proof.Machine.execClrb s
  | .clr m => Sys2Proof.Machine.execClr m s
  | .cmpa src => Sys2Proof.Machine.execCmpa src s
  | .cmpb src => Sys2Proof.Machine.execCmpb src s
  | .cmpd src => Sys2Proof.Machine.execCmpd src s
  | .cmps src => Sys2Proof.Machine.execCmps src s
  | .cmpu src => Sys2Proof.Machine.execCmpu src s
  | .cmpx src => Sys2Proof.Machine.execCmpx src s
  | .cmpy src => Sys2Proof.Machine.execCmpy src s
  | .coma => Sys2Proof.Machine.execComa s
  | .comb => Sys2Proof.Machine.execComb s
  | .com m => Sys2Proof.Machine.execCom m s
  | .cwai m => Sys2Proof.Machine.execCwai m s
  | .daa => Sys2Proof.Machine.execDaa s
  | .deca => Sys2Proof.Machine.execDeca s
  | .decb => Sys2Proof.Machine.execDecb s
  | .dec m => Sys2Proof.Machine.execDec m s
  | .eora src => Sys2Proof.Machine.execEora src s
  | .eorb src => Sys2Proof.Machine.execEorb src s
  | .exg r1 r2 => Sys2Proof.Machine.execExg r1 r2 s
  | .inca => Sys2Proof.Machine.execInca s
  | .incb => Sys2Proof.Machine.execIncb s
  | .inc m => Sys2Proof.Machine.execInc m s
  | .jmp m => Sys2Proof.Machine.execJmp m s
  | .jsr m => Sys2Proof.Machine.execJsr m s
  | .lda src => Sys2Proof.Machine.execLda src s
  | .ldb src => Sys2Proof.Machine.execLdb src s
  | .ldd src => Sys2Proof.Machine.execLdd src s
  | .lds src => Sys2Proof.Machine.execLds src s
  | .ldu src => Sys2Proof.Machine.execLdu src s
  | .ldx src => Sys2Proof.Machine.execLdx src s
  | .ldy src => Sys2Proof.Machine.execLdy src s
  | .leas m => Sys2Proof.Machine.execLeas m s
  | .leau m => Sys2Proof.Machine.execLeau m s
  | .leax m => Sys2Proof.Machine.execLeax m s
  | .leay m => Sys2Proof.Machine.execLeay m s
  | .lsla => Sys2Proof.Machine.execLsla s
  | .lslb => Sys2Proof.Machine.execLslb s
  | .lsl m => Sys2Proof.Machine.execLsl m s
  | .lsra => Sys2Proof.Machine.execLsra s
  | .lsrb => Sys2Proof.Machine.execLsrb s
  | .lsr m => Sys2Proof.Machine.execLsr m s
  | .mul => Sys2Proof.Machine.execMul s
  | .nega => Sys2Proof.Machine.execNega s
  | .negb => Sys2Proof.Machine.execNegb s
  | .neg m => Sys2Proof.Machine.execNeg m s
  | .nop => Sys2Proof.Machine.execNop s
  | .ora src => Sys2Proof.Machine.execOra src s
  | .orb src => Sys2Proof.Machine.execOrb src s
  | .orcc m => Sys2Proof.Machine.execOrcc m s
  | .pshs l => Sys2Proof.Machine.execPshs l s
  | .pshu l => Sys2Proof.Machine.execPshu l s
  | .puls l => Sys2Proof.Machine.execPuls l s
  | .pulu l => Sys2Proof.Machine.execPulu l s
  | .rola => Sys2Proof.Machine.execRola s
  | .rolb => Sys2Proof.Machine.execRolb s
  | .rol m => Sys2Proof.Machine.execRol m s
  | .rora => Sys2Proof.Machine.execRora s
  | .rorb => Sys2Proof.Machine.execRorb s
  | .ror m => Sys2Proof.Machine.execRor m s
  | .rti => Sys2Proof.Machine.execRti s
  | .rts => Sys2Proof.Machine.execRts s
  | .sbca src => Sys2Proof.Machine.execSbca src s
  | .sbcb src => Sys2Proof.Machine.execSbcb src s
  | .sex => Sys2Proof.Machine.execSex s
  | .sta m => Sys2Proof.Machine.execSta m s
  | .stb m => Sys2Proof.Machine.execStb m s
  | .std m => Sys2Proof.Machine.execStd m s
  | .sts m => Sys2Proof.Machine.execSts m s
  | .stu m => Sys2Proof.Machine.execStu m s
  | .stx m => Sys2Proof.Machine.execStx m s
  | .sty m => Sys2Proof.Machine.execSty m s
  | .suba src => Sys2Proof.Machine.execSuba src s
  | .subb src => Sys2Proof.Machine.execSubb src s
  | .subd src => Sys2Proof.Machine.execSubd src s
  | .swi => Sys2Proof.Machine.execSwi s
  | .swi2 => Sys2Proof.Machine.execSwi2 s
  | .swi3 => Sys2Proof.Machine.execSwi3 s
  | .sync => Sys2Proof.Machine.execSync s
  | .tfr r1 r2 => Sys2Proof.Machine.execTfr r1 r2 s
  | .tsta => Sys2Proof.Machine.execTsta s
  | .tstb => Sys2Proof.Machine.execTstb s
  | .tst m => Sys2Proof.Machine.execTst m s
  | .bcc o => Sys2Proof.Machine.execBcc o s
  | .lbcc o => Sys2Proof.Machine.execLbcc o s
  | .bcs o => Sys2Proof.Machine.execBcs o s
  | .lbcs o => Sys2Proof.Machine.execLbcs o s
  | .beq o => Sys2Proof.Machine.execBeq o s
  | .lbeq o => Sys2Proof.Machine.execLbeq o s
  | .bge o => Sys2Proof.Machine.execBge o s
  | .lbge o => Sys2Proof.Machine.execLbge o s
  | .bgt o => Sys2Proof.Machine.execBgt o s
  | .lbgt o => Sys2Proof.Machine.execLbgt o s
  | .bhi o => Sys2Proof.Machine.execBhi o s
  | .lbhi o => Sys2Proof.Machine.execLbhi o s
  | .bhs o => Sys2Proof.Machine.execBhs o s
  | .lbhs o => Sys2Proof.Machine.execLbhs o s
  | .ble o => Sys2Proof.Machine.execBle o s
  | .lble o => Sys2Proof.Machine.execLble o s
  | .blo o => Sys2Proof.Machine.execBlo o s
  | .lblo o => Sys2Proof.Machine.execLblo o s
  | .bls o => Sys2Proof.Machine.execBls o s
  | .lbls o => Sys2Proof.Machine.execLbls o s
  | .blt o => Sys2Proof.Machine.execBlt o s
  | .lblt o => Sys2Proof.Machine.execLblt o s
  | .bmi o => Sys2Proof.Machine.execBmi o s
  | .lbmi o => Sys2Proof.Machine.execLbmi o s
  | .bne o => Sys2Proof.Machine.execBne o s
  | .lbne o => Sys2Proof.Machine.execLbne o s
  | .bpl o => Sys2Proof.Machine.execBpl o s
  | .lbpl o => Sys2Proof.Machine.execLbpl o s
  | .bra o => Sys2Proof.Machine.execBra o s
  | .lbra o => Sys2Proof.Machine.execLbra o s
  | .brn o => Sys2Proof.Machine.execBrn o s
  | .lbrn o => Sys2Proof.Machine.execLbrn o s
  | .bsr o => Sys2Proof.Machine.execBsr o s
  | .lbsr o => Sys2Proof.Machine.execLbsr o s
  | .bvc o => Sys2Proof.Machine.execBvc o s
  | .lbvc o => Sys2Proof.Machine.execLbvc o s
  | .bvs o => Sys2Proof.Machine.execBvs o s
  | .lbvs o => Sys2Proof.Machine.execLbvs o s

end Sys2Proof.Machine
end

