-- ==== Sys2Proof/Machine/Fetch.lean ====
section
/-! DEFINITION. Fetching an instruction: its bytes are read from memory at PC, one by one as the decoder asks for them
(spec/20_memory.md R55, spec/30_encoding.md R85). -/

namespace Sys2Proof.Machine

/-- The instruction at PC, and the state whose PC is the address of the next one (R25). A byte read outside ram and rom
stops as any access does; an encoding without a meaning faults (D1). -/
def fetchInstr (s : State) : Res (Instr × State) := do
  let (i, n) ← decodeFrom (fun k => readByte s (s.pc + BitVec.ofNat 16 k)) (fun w => Stop.fault (.undefined w))
  return (i, { s with pc := s.pc + BitVec.ofNat 16 n })

end Sys2Proof.Machine
end

