-- ==== Sys2Proof/Machine/Interrupts.lean ====
section
/-! DEFINITION. Interrupt sampling, priority and entry (spec/60_exceptions.md R302 to R314). -/

namespace Sys2Proof.Machine

/-- The answer `IRQ_IN` gives at this sampling point; no sample left is no request (R302, log 5). -/
def State.sample (s : State) : Inputs :=
  match s.irqIn with
  | [] => { nmiEdge := false, firqLevel := false, irqLevel := false }
  | i :: _ => i

/-- The state after sampling: the sample is consumed, and an NMI edge is latched if NMI is armed (R302, R304). An edge
that arrives unarmed is dropped (R309). -/
def State.latch (s : State) : State :=
  { s with irqIn := s.irqIn.tail, nmiPending := s.nmiPending || (s.sample.nmiEdge && s.nmiArmed) }

/-- What an entry stacks in the present run state: `f`, or nothing after CWAI (R307 to R309, R312). -/
def State.entryFrame (s : State) (f : Frame) : Frame :=
  match s.runState with
  | .running => f
  | .syncWait => f
  | .cwaiWait => .stacked

/-- The interrupts the inputs can cause (R302). -/
inductive Interrupt where
  | nmi | firq | irq
  deriving DecidableEq, Repr

section
variable {μ : Type → Type} [Monad μ] (bus : Bus μ)

/-- `TakeIRQ()` (R307). -/
def Bus.takeIrq (s : State) : μ State :=
  bus.enterException (s.entryFrame .entire) .setI .irq { s with runState := .running }

/-- `TakeFIRQ()` (R308). -/
def Bus.takeFirq (s : State) : μ State :=
  bus.enterException (s.entryFrame .short) .setIF .firq { s with runState := .running }

/-- `TakeNMI()` (R309). -/
def Bus.takeNmi (s : State) : μ State :=
  bus.enterException (s.entryFrame .entire) .setIF .nmi { s with runState := .running, nmiPending := false }

/-- The entry of an interrupt. -/
def Bus.takeInterrupt (k : Interrupt) (s : State) : μ State :=
  match k with
  | .nmi => bus.takeNmi s
  | .firq => bus.takeFirq s
  | .irq => bus.takeIrq s

end

/-- What a sampling point decides. -/
inductive Polled where
  /-- Keep waiting. -/
  | wait (s : State)
  /-- An interrupt is taken; its entry is the whole step. -/
  | take (k : Interrupt) (s : State)
  /-- One instruction is to be executed. -/
  | execute (s : State)
  deriving DecidableEq, Repr

/-- The sampling point (R304): the priority is NMI over FIRQ over IRQ. -/
def poll (s : State) : Polled :=
  let i := s.sample
  let s := s.latch
  if s.runState = .syncWait ∧ ¬(s.nmiPending ∨ i.firqLevel ∨ i.irqLevel) then .wait s
  else
    let s := if s.runState = .syncWait then { s with runState := .running } else s
    if s.nmiPending then .take .nmi s
    else if i.firqLevel ∧ CC.get s.cc .f = false then .take .firq s
    else if i.irqLevel ∧ CC.get s.cc .i = false then .take .irq s
    else if s.runState = .cwaiWait then .wait s
    else .execute s

end Sys2Proof.Machine
end

