-- ==== Sys2Proof/Machine/Step.lean ====
section
/-! DEFINITION. One step of the machine (spec/60_exceptions.md R304), and the host's way to place an instruction where
the step fetches it. -/

namespace Sys2Proof.Machine

/-- One step (R304): the sampling point, then an interrupt entry, one instruction, or one more turn of a wait. -/
def step (s : State) : Host.Outcome State Fault Refusal :=
  match poll s with
  | .wait s => .next s
  | .take k s => finish (Bus.plain.takeInterrupt k s)
  | .execute s =>
    match fetchInstr s with
    | .ok (i, s) => exec i s
    | .error e => finish (.error e)

/-- A platform on which the address `a` reads and writes: itself, or itself with that one address made ram. -/
def Platform.withReadable (p : Platform) (a : Nat) : Platform :=
  match regionOf p a with
  | .ram => p
  | .rom => p
  | .device => ⟨a, 1, .ram⟩ :: p
  | .absent => ⟨a, 1, .ram⟩ :: p

/-- Memory and platform with bytes placed from an address on. -/
def placeBytes : List Byte → Word → Memory × Platform → Memory × Platform
  | [], _, mp => mp
  | b :: rest, a, mp => placeBytes rest (a + 1) (Memory.write mp.1 a.toNat b, Platform.withReadable mp.2 a.toNat)

/-- `s` with the instruction of an opcode-table word stored at PC, ready to execute it in the next step: running, no NMI
pending, no request in the next sample. It stands for the loading of a program from outside. Log 1, log 19. -/
def State.withFetchWord (s : State) (nbits w : Nat) : State :=
  let mp := placeBytes (tableBytes nbits w) s.pc (s.mem, s.platform)
  { s with
    mem := mp.1
    platform := mp.2
    runState := .running
    nmiPending := false
    irqIn := match s.irqIn with
      | [] => []
      | i :: rest => { nmiEdge := false, firqLevel := false, irqLevel := false } :: i :: rest }

end Sys2Proof.Machine
end

