-- ==== Sys2Proof/Machine/Reset.lean ====
section
/-! DEFINITION. A reset that does not wait for the end of a step (spec/70_reset_and_hazards.md R340): the state a step has
reached at each point between two of its memory accesses (R46), and `Reset()` applied to it. Log 9. -/

namespace Sys2Proof.Machine

/-! ### Effects cut short -/

/-- Why an effect cut short has no result. -/
inductive Halt where
  /-- The effect stops by itself. -/
  | stop (r : Stop)
  /-- The moment has come; the state the effect has reached. -/
  | reached (s : State)
  deriving DecidableEq, Repr

/-- An effect that goes on for a number of moments, and hands on how many are left. Each memory access has two: moment
`2 k` of an effect is right before its access `k`, moment `2 k + 1` right after it, counted from 0. -/
abbrev Counted (α : Type) := StateT Nat (Except Halt) α

/-- One moment passes, with the machine in state `s`. -/
def Counted.moment (s : State) : Counted Unit := fun n =>
  match n with
  | 0 => .error (.reached s)
  | n + 1 => .ok ((), n)

/-- A result that no moment cuts. -/
def Counted.ofRes {α : Type} : Res α → Counted α
  | .ok v => pure v
  | .error r => fun _ => .error (.stop r)

/-- The bus whose accesses take two moments each. -/
def Bus.counted : Bus (StateT Nat (Except Halt)) where
  read := fun s a => do
    Counted.moment s
    let v ← Counted.ofRes (readByte s a)
    Counted.moment s
    return v
  write := fun s a v => do
    Counted.moment s
    let t ← Counted.ofRes (writeByte s a v)
    Counted.moment t
    return t
  inner := fun o => Counted.ofRes (Res.ofOutcome o)

/-- The state of an effect at moment `n`; its result, if it is over by then. -/
def Counted.stateAt (p : Counted State) (n : Nat) : Res State :=
  match p.run n with
  | .ok (t, _) => .ok t
  | .error (.reached u) => .ok u
  | .error (.stop r) => .error r

/-! ### One instruction -/

/-- The effect of an instruction over a bus: that of `exec`, access by access. -/
def Bus.perform {μ : Type → Type} [Monad μ] (bus : Bus μ) (i : Instr) (s : State) : μ State :=
  match i with
  | .abx => bus.inner (execAbx s)
  | .adca src => bus.adca src s
  | .adcb src => bus.adcb src s
  | .adda src => bus.adda src s
  | .addb src => bus.addb src s
  | .addd src => bus.addd src s
  | .anda src => bus.anda src s
  | .andb src => bus.andb src s
  | .andcc m => bus.inner (execAndcc m s)
  | .asla => bus.inner (execAsla s)
  | .aslb => bus.inner (execAslb s)
  | .asl m => bus.asl m s
  | .asra => bus.inner (execAsra s)
  | .asrb => bus.inner (execAsrb s)
  | .asr m => bus.asr m s
  | .bita src => bus.bita src s
  | .bitb src => bus.bitb src s
  | .clra => bus.inner (execClra s)
  | .clrb => bus.inner (execClrb s)
  | .clr m => bus.clr m s
  | .cmpa src => bus.cmpa src s
  | .cmpb src => bus.cmpb src s
  | .cmpd src => bus.cmpd src s
  | .cmps src => bus.cmps src s
  | .cmpu src => bus.cmpu src s
  | .cmpx src => bus.cmpx src s
  | .cmpy src => bus.cmpy src s
  | .coma => bus.inner (execComa s)
  | .comb => bus.inner (execComb s)
  | .com m => bus.com m s
  | .cwai m => bus.cwai m s
  | .daa => bus.inner (execDaa s)
  | .deca => bus.inner (execDeca s)
  | .decb => bus.inner (execDecb s)
  | .dec m => bus.dec m s
  | .eora src => bus.eora src s
  | .eorb src => bus.eorb src s
  | .exg r1 r2 => bus.inner (execExg r1 r2 s)
  | .inca => bus.inner (execInca s)
  | .incb => bus.inner (execIncb s)
  | .inc m => bus.inc m s
  | .jmp m => bus.jmp m s
  | .jsr m => bus.jsr m s
  | .lda src => bus.lda src s
  | .ldb src => bus.ldb src s
  | .ldd src => bus.ldd src s
  | .lds src => bus.lds src s
  | .ldu src => bus.ldu src s
  | .ldx src => bus.ldx src s
  | .ldy src => bus.ldy src s
  | .leas m => bus.leas m s
  | .leau m => bus.leau m s
  | .leax m => bus.leax m s
  | .leay m => bus.leay m s
  | .lsla => bus.inner (execLsla s)
  | .lslb => bus.inner (execLslb s)
  | .lsl m => bus.lsl m s
  | .lsra => bus.inner (execLsra s)
  | .lsrb => bus.inner (execLsrb s)
  | .lsr m => bus.lsr m s
  | .mul => bus.inner (execMul s)
  | .nega => bus.inner (execNega s)
  | .negb => bus.inner (execNegb s)
  | .neg m => bus.neg m s
  | .nop => bus.inner (execNop s)
  | .ora src => bus.ora src s
  | .orb src => bus.orb src s
  | .orcc m => bus.inner (execOrcc m s)
  | .pshs l => bus.pshs l s
  | .pshu l => bus.pshu l s
  | .puls l => bus.puls l s
  | .pulu l => bus.pulu l s
  | .rola => bus.inner (execRola s)
  | .rolb => bus.inner (execRolb s)
  | .rol m => bus.rol m s
  | .rora => bus.inner (execRora s)
  | .rorb => bus.inner (execRorb s)
  | .ror m => bus.ror m s
  | .rti => bus.rti s
  | .rts => bus.rts s
  | .sbca src => bus.sbca src s
  | .sbcb src => bus.sbcb src s
  | .sex => bus.inner (execSex s)
  | .sta m => bus.sta m s
  | .stb m => bus.stb m s
  | .std m => bus.std m s
  | .sts m => bus.sts m s
  | .stu m => bus.stu m s
  | .stx m => bus.stx m s
  | .sty m => bus.sty m s
  | .suba src => bus.suba src s
  | .subb src => bus.subb src s
  | .subd src => bus.subd src s
  | .swi => bus.swi s
  | .swi2 => bus.swi2 s
  | .swi3 => bus.swi3 s
  | .sync => bus.inner (execSync s)
  | .tfr r1 r2 => bus.inner (execTfr r1 r2 s)
  | .tsta => bus.inner (execTsta s)
  | .tstb => bus.inner (execTstb s)
  | .tst m => bus.tst m s
  | .bcc o => bus.inner (execBcc o s)
  | .lbcc o => bus.inner (execLbcc o s)
  | .bcs o => bus.inner (execBcs o s)
  | .lbcs o => bus.inner (execLbcs o s)
  | .beq o => bus.inner (execBeq o s)
  | .lbeq o => bus.inner (execLbeq o s)
  | .bge o => bus.inner (execBge o s)
  | .lbge o => bus.inner (execLbge o s)
  | .bgt o => bus.inner (execBgt o s)
  | .lbgt o => bus.inner (execLbgt o s)
  | .bhi o => bus.inner (execBhi o s)
  | .lbhi o => bus.inner (execLbhi o s)
  | .bhs o => bus.inner (execBhs o s)
  | .lbhs o => bus.inner (execLbhs o s)
  | .ble o => bus.inner (execBle o s)
  | .lble o => bus.inner (execLble o s)
  | .blo o => bus.inner (execBlo o s)
  | .lblo o => bus.inner (execLblo o s)
  | .bls o => bus.inner (execBls o s)
  | .lbls o => bus.inner (execLbls o s)
  | .blt o => bus.inner (execBlt o s)
  | .lblt o => bus.inner (execLblt o s)
  | .bmi o => bus.inner (execBmi o s)
  | .lbmi o => bus.inner (execLbmi o s)
  | .bne o => bus.inner (execBne o s)
  | .lbne o => bus.inner (execLbne o s)
  | .bpl o => bus.inner (execBpl o s)
  | .lbpl o => bus.inner (execLbpl o s)
  | .bra o => bus.inner (execBra o s)
  | .lbra o => bus.inner (execLbra o s)
  | .brn o => bus.inner (execBrn o s)
  | .lbrn o => bus.inner (execLbrn o s)
  | .bsr o => bus.bsr o s
  | .lbsr o => bus.lbsr o s
  | .bvc o => bus.inner (execBvc o s)
  | .lbvc o => bus.inner (execLbvc o s)
  | .bvs o => bus.inner (execBvs o s)
  | .lbvs o => bus.inner (execLbvs o s)

/-- The state of an instruction's effect at moment `n`, its fetch apart. -/
def insideInstr (n : Nat) (i : Instr) (s : State) : Res State := Counted.stateAt (Bus.counted.perform i s) n

/-- The fetch of an instruction, whose bytes are its first accesses (R46, R55). While it goes on, PC is the address of the
next byte. -/
def fetchCounted (s : State) : Counted (Instr × State) := fun n => do
  let (i, len) ← decodeFrom
    (fun k =>
      if n ≤ 2 * k then .error (.reached { s with pc := s.pc + BitVec.ofNat 16 k })
      else
        match readByte s (s.pc + BitVec.ofNat 16 k) with
        | .error r => .error (.stop r)
        | .ok b => if n = 2 * k + 1 then .error (.reached { s with pc := s.pc + BitVec.ofNat 16 (k + 1) }) else .ok b)
    (fun w => Halt.stop (.fault (.undefined w)))
  return ((i, { s with pc := s.pc + BitVec.ofNat 16 len }), n - 2 * len)

/-! ### One step -/

/-- The state of the step from `s` at moment `n`: an entry's, or an instruction's from its fetch on; a turn of a wait makes
no access and is over at once. -/
def stateInside (n : Nat) (s : State) : Res State :=
  match poll s with
  | .wait t => .ok t
  | .take k t => Counted.stateAt (Bus.counted.takeInterrupt k t) n
  | .execute t =>
    Counted.stateAt (do
      let (i, t) ← fetchCounted t
      Bus.counted.perform i t) n

/-- A reset at moment `n` of the step from `s` (R340): what the step had done by then stays done, the rest of it is
abandoned. A reset between two steps is `resetSequence`. -/
def resetDuring (n : Nat) (s : State) : Host.Outcome State Fault Refusal :=
  finish (stateInside n s >>= resetSequence)

end Sys2Proof.Machine
end

