-- ==== Sys2Proof/Machine/Timing.lean ====
section
/-! DEFINITION. Cycle counts (spec/70_reset_and_hazards.md R345, R346; spec/30_encoding.md R68, R81). No rule of state
depends on them and no register counts them: a function of the instruction and the state it executes in, no part of the
step. Log 16. -/

namespace Sys2Proof.Machine

/-- A cycle count: the document prints a number, or for CWAI and SYNC a minimum (R346 e). -/
inductive CycleCount where
  | exactly (n : Nat)
  | atLeast (n : Nat)
  deriving DecidableEq, Repr

/-- The extra cycles of an indexed postbyte: the first number direct, the second indirect (R68). -/
def extraCycles : Indexed → Nat
  | .offset5 _ _ => 1
  | .postInc1 _ => 2
  | .postInc2 _ ind => if ind then 6 else 3
  | .preDec1 _ => 2
  | .preDec2 _ ind => if ind then 6 else 3
  | .noOffset _ ind => if ind then 3 else 0
  | .accB _ ind => if ind then 4 else 1
  | .accA _ ind => if ind then 4 else 1
  | .offset8 _ _ ind => if ind then 4 else 1
  | .offset16 _ _ ind => if ind then 7 else 4
  | .accD _ ind => if ind then 7 else 4
  | .pcr8 _ _ ind => if ind then 4 else 1
  | .pcr16 _ _ ind => if ind then 8 else 5
  | .extIndirect _ => 5

/-- The count of an instruction with a memory operand, by mode (R81). -/
def memCycles (dir idx ext : Nat) : MemOperand → CycleCount
  | .direct _ => .exactly dir
  | .indexed m => .exactly (idx + extraCycles m)
  | .extended _ => .exactly ext

/-- The count of an instruction with an 8-bit source. -/
def src8Cycles (imm dir idx ext : Nat) : Src8 → CycleCount
  | .imm _ => .exactly imm
  | .mem m => memCycles dir idx ext m

/-- The count of an instruction with a 16-bit source. -/
def src16Cycles (imm dir idx ext : Nat) : Src16 → CycleCount
  | .imm _ => .exactly imm
  | .mem m => memCycles dir idx ext m

/-- The bytes a register list moves: two for a 16-bit register, one for an 8-bit one (R84, R346 b). -/
def listByteCount (l : RegList) : Nat :=
  2 * (l.pc.toNat + l.other.toNat + l.y.toNat + l.x.toNat) + l.dp.toNat + l.b.toNat + l.a.toNat + l.cc.toNat

/-- The count of a long conditional branch: 5, or 6 if taken (R346 c). -/
def longBranchCycles (k : Cond) (s : State) : CycleCount := .exactly (if k.holds s.cc then 6 else 5)

/-- The cycles an instruction takes in the state it executes in, the "~" column of its row (R345). -/
def cycles (i : Instr) (s : State) : CycleCount :=
  match i with
  | .abx => .exactly 3
  | .adca src => src8Cycles 2 4 4 5 src
  | .adcb src => src8Cycles 2 4 4 5 src
  | .adda src => src8Cycles 2 4 4 5 src
  | .addb src => src8Cycles 2 4 4 5 src
  | .addd src => src16Cycles 4 6 6 7 src
  | .anda src => src8Cycles 2 4 4 5 src
  | .andb src => src8Cycles 2 4 4 5 src
  | .andcc _ => .exactly 3
  | .asla => .exactly 2
  | .aslb => .exactly 2
  | .asl m => memCycles 6 6 7 m
  | .asra => .exactly 2
  | .asrb => .exactly 2
  | .asr m => memCycles 6 6 7 m
  | .bita src => src8Cycles 2 4 4 5 src
  | .bitb src => src8Cycles 2 4 4 5 src
  | .clra => .exactly 2
  | .clrb => .exactly 2
  | .clr m => memCycles 6 6 7 m
  | .cmpa src => src8Cycles 2 4 4 5 src
  | .cmpb src => src8Cycles 2 4 4 5 src
  | .cmpd src => src16Cycles 5 7 7 8 src
  | .cmps src => src16Cycles 5 7 7 8 src
  | .cmpu src => src16Cycles 5 7 7 8 src
  | .cmpx src => src16Cycles 4 6 6 7 src
  | .cmpy src => src16Cycles 5 7 7 8 src
  | .coma => .exactly 2
  | .comb => .exactly 2
  | .com m => memCycles 6 6 7 m
  | .cwai _ => .atLeast 20
  | .daa => .exactly 2
  | .deca => .exactly 2
  | .decb => .exactly 2
  | .dec m => memCycles 6 6 7 m
  | .eora src => src8Cycles 2 4 4 5 src
  | .eorb src => src8Cycles 2 4 4 5 src
  | .exg _ _ => .exactly 8
  | .inca => .exactly 2
  | .incb => .exactly 2
  | .inc m => memCycles 6 6 7 m
  | .jmp m => memCycles 3 3 4 m
  | .jsr m => memCycles 7 7 8 m
  | .lda src => src8Cycles 2 4 4 5 src
  | .ldb src => src8Cycles 2 4 4 5 src
  | .ldd src => src16Cycles 3 5 5 6 src
  | .lds src => src16Cycles 4 6 6 7 src
  | .ldu src => src16Cycles 3 5 5 6 src
  | .ldx src => src16Cycles 3 5 5 6 src
  | .ldy src => src16Cycles 4 6 6 7 src
  | .leas m => .exactly (4 + extraCycles m)
  | .leau m => .exactly (4 + extraCycles m)
  | .leax m => .exactly (4 + extraCycles m)
  | .leay m => .exactly (4 + extraCycles m)
  | .lsla => .exactly 2
  | .lslb => .exactly 2
  | .lsl m => memCycles 6 6 7 m
  | .lsra => .exactly 2
  | .lsrb => .exactly 2
  | .lsr m => memCycles 6 6 7 m
  | .mul => .exactly 11
  | .nega => .exactly 2
  | .negb => .exactly 2
  | .neg m => memCycles 6 6 7 m
  | .nop => .exactly 2
  | .ora src => src8Cycles 2 4 4 5 src
  | .orb src => src8Cycles 2 4 4 5 src
  | .orcc _ => .exactly 3
  | .pshs l => .exactly (5 + listByteCount l)
  | .pshu l => .exactly (5 + listByteCount l)
  | .puls l => .exactly (5 + listByteCount l)
  | .pulu l => .exactly (5 + listByteCount l)
  | .rola => .exactly 2
  | .rolb => .exactly 2
  | .rol m => memCycles 6 6 7 m
  | .rora => .exactly 2
  | .rorb => .exactly 2
  | .ror m => memCycles 6 6 7 m
  | .rti => .exactly (if CC.get (Memory.read s.mem s.s.toNat) .e then 15 else 6)
  | .rts => .exactly 5
  | .sbca src => src8Cycles 2 4 4 5 src
  | .sbcb src => src8Cycles 2 4 4 5 src
  | .sex => .exactly 2
  | .sta m => memCycles 4 4 5 m
  | .stb m => memCycles 4 4 5 m
  | .std m => memCycles 5 5 6 m
  | .sts m => memCycles 6 6 7 m
  | .stu m => memCycles 5 5 6 m
  | .stx m => memCycles 5 5 6 m
  | .sty m => memCycles 6 6 7 m
  | .suba src => src8Cycles 2 4 4 5 src
  | .subb src => src8Cycles 2 4 4 5 src
  | .subd src => src16Cycles 4 6 6 7 src
  | .swi => .exactly 19
  | .swi2 => .exactly 20
  | .swi3 => .exactly 20
  | .sync => .atLeast 4
  | .tfr _ _ => .exactly 6
  | .tsta => .exactly 2
  | .tstb => .exactly 2
  | .tst m => memCycles 6 6 7 m
  | .bcc _ => .exactly 3
  | .lbcc _ => longBranchCycles .cc s
  | .bcs _ => .exactly 3
  | .lbcs _ => longBranchCycles .cs s
  | .beq _ => .exactly 3
  | .lbeq _ => longBranchCycles .eq s
  | .bge _ => .exactly 3
  | .lbge _ => longBranchCycles .ge s
  | .bgt _ => .exactly 3
  | .lbgt _ => longBranchCycles .gt s
  | .bhi _ => .exactly 3
  | .lbhi _ => longBranchCycles .hi s
  | .bhs _ => .exactly 3
  | .lbhs _ => longBranchCycles .cc s
  | .ble _ => .exactly 3
  | .lble _ => longBranchCycles .le s
  | .blo _ => .exactly 3
  | .lblo _ => longBranchCycles .cs s
  | .bls _ => .exactly 3
  | .lbls _ => longBranchCycles .ls s
  | .blt _ => .exactly 3
  | .lblt _ => longBranchCycles .lt s
  | .bmi _ => .exactly 3
  | .lbmi _ => longBranchCycles .mi s
  | .bne _ => .exactly 3
  | .lbne _ => longBranchCycles .ne s
  | .bpl _ => .exactly 3
  | .lbpl _ => longBranchCycles .pl s
  | .bra _ => .exactly 3
  | .lbra _ => .exactly 5
  | .brn _ => .exactly 3
  | .lbrn _ => .exactly 5
  | .bsr _ => .exactly 7
  | .lbsr _ => .exactly 9
  | .bvc _ => .exactly 3
  | .lbvc _ => longBranchCycles .vc s
  | .bvs _ => .exactly 3
  | .lbvs _ => longBranchCycles .vs s

end Sys2Proof.Machine
end

