-- ==== Sys2Proof/Safety.lean ====
section
/-! DEFINITION. The terms statements use: platforms without a hole, the invariant of the machine, the results and flags of
the spec's arithmetic in whole numbers, stored bytes, stack frames, and the spec's tables of what an instruction may
change. Nothing here is used by the step. -/

namespace Sys2Proof.Machine

/-! ### States -/

/-- An address that reads and writes: ram or rom (R41, R49). -/
def State.Usable (s : State) (a : Word) : Prop := s.region a = .ram ∨ s.region a = .rom

/-- Every address of the platform is ram or rom, so that no access stops (R41, R49). -/
def State.NoHoles (s : State) : Prop := ∀ a : Word, s.Usable a

/-- No interrupt is accepted at this sampling point: no NMI is pending or arrives armed, and FIRQ and IRQ are silent or
masked (R304). -/
def State.Quiet (s : State) : Prop :=
  s.nmiPending = false ∧ ¬(s.sample.nmiEdge = true ∧ s.nmiArmed = true) ∧
  ¬(s.sample.firqLevel = true ∧ CC.get s.cc .f = false) ∧ ¬(s.sample.irqLevel = true ∧ CC.get s.cc .i = false)

/-- What every step keeps: memory in canonical form (log 3); an NMI pending only if NMI is armed (R309: `nmi_pending = 1`
"implies `nmi_armed = 1`"); E set while CWAI waits (R312). -/
structure State.Inv (s : State) : Prop where
  memory : Memory.wf s.mem = true
  nmi : s.nmiPending = true → s.nmiArmed = true
  cwai : s.runState = .cwaiWait → CC.get s.cc .e = true

/-! ### Flags and results in whole numbers -/

/-- The five CC cells of a row (R5): `none` is an empty cell, the flag unchanged; E, F and I are unchanged. -/
def CC.Cells (old new : Byte) (h n z v c : Option Bool) : Prop :=
  CC.get new .e = CC.get old .e ∧ CC.get new .f = CC.get old .f ∧ CC.get new .i = CC.get old .i ∧
  CC.get new .h = h.getD (CC.get old .h) ∧ CC.get new .n = n.getD (CC.get old .n) ∧
  CC.get new .z = z.getD (CC.get old .z) ∧ CC.get new .v = v.getD (CC.get old .v) ∧
  CC.get new .c = c.getD (CC.get old .c)

/-- A whole number that no signed byte holds (R8, R9). -/
def overflows8 (v : Int) : Bool := decide (v < -128 ∨ 127 < v)

/-- A whole number that no signed word holds (R10, R11). -/
def overflows16 (v : Int) : Bool := decide (v < -32768 ∨ 32767 < v)

/-- `r` and the flags are those of the sum `x + m + cin` (R8). -/
def SumOf (x m : Byte) (cin : Bool) (r old new : Byte) : Prop :=
  r.toNat = (x.toNat + m.toNat + cin.toNat) % 256 ∧
  CC.Cells old new (some (decide (16 ≤ x.toNat % 16 + m.toNat % 16 + cin.toNat))) (some (decide (r.toInt < 0)))
    (some (decide (r = 0))) (some (overflows8 (x.toInt + m.toInt + cin.toNat)))
    (some (decide (256 ≤ x.toNat + m.toNat + cin.toNat)))

/-- `r` and the flags are those of the difference `x - m - bin` (R9), with the half carry `h` (R13). -/
def DifferenceOf (x m : Byte) (bin h : Bool) (r old new : Byte) : Prop :=
  (r.toNat : Int) = ((x.toNat : Int) - m.toNat - bin.toNat) % 256 ∧
  CC.Cells old new (some h) (some (decide (r.toInt < 0))) (some (decide (r = 0)))
    (some (overflows8 (x.toInt - m.toInt - bin.toNat))) (some (decide (x.toNat < m.toNat + bin.toNat)))

/-- `r` and the flags are those of the 16-bit sum (R10). -/
def SumOf16 (x m r : Word) (old new : Byte) : Prop :=
  r.toNat = (x.toNat + m.toNat) % 65536 ∧
  CC.Cells old new none (some (decide (r.toInt < 0))) (some (decide (r = 0)))
    (some (overflows16 (x.toInt + m.toInt))) (some (decide (65536 ≤ x.toNat + m.toNat)))

/-- `r` and the flags are those of the 16-bit difference (R11). -/
def DifferenceOf16 (x m r : Word) (old new : Byte) : Prop :=
  (r.toNat : Int) = ((x.toNat : Int) - m.toNat) % 65536 ∧
  CC.Cells old new none (some (decide (r.toInt < 0))) (some (decide (r = 0)))
    (some (overflows16 (x.toInt - m.toInt))) (some (decide (x.toNat < m.toNat)))

/-- N and Z are those of a byte, V is cleared (R12). -/
def TestedByte (r old new : Byte) : Prop :=
  CC.Cells old new none (some (decide (r.toInt < 0))) (some (decide (r = 0))) (some false) none

/-- N and Z are those of a word, V is cleared (R12). -/
def TestedWord (r : Word) (old new : Byte) : Prop :=
  CC.Cells old new none (some (decide (r.toInt < 0))) (some (decide (r = 0))) (some false) none

/-- A row of the instruction table with an 8-bit source: the opcode and the cycles of the immediate, direct, indexed and
extended form (R93, R345). -/
def Src8Row (f : Src8 → Instr) (imm dir idx ext : Byte) (ci cd cx ce : Nat) : Prop :=
  (∀ v : Byte, encode (f (.imm v)) = [imm, v] ∧ ∀ s : State, cycles (f (.imm v)) s = .exactly ci) ∧
  (∀ a : Byte, encode (f (.mem (.direct a))) = [dir, a] ∧ ∀ s : State, cycles (f (.mem (.direct a))) s = .exactly cd) ∧
  (∀ m : Indexed, encode (f (.mem (.indexed m))) = idx :: encodeIndexed m ∧
    ∀ s : State, cycles (f (.mem (.indexed m))) s = .exactly (cx + extraCycles m)) ∧
  (∀ a : Word, encode (f (.mem (.extended a))) = [ext, hiByte a, loByte a] ∧
    ∀ s : State, cycles (f (.mem (.extended a))) s = .exactly ce)

/-- The single-operand operations (R109 to R114, R127 to R134, R143 to R145, R174 to R180, R202 to R207). -/
inductive Unary where
  | asl | asr | lsr | rol | ror | neg | com | inc | dec | clr
  deriving DecidableEq, Repr

/-- `r` and the flags are those of the operation on `v`; `h` is the half carry drawn where H is undefined. -/
def Unary.Gives (op : Unary) (v : Byte) (h : Bool) (r old new : Byte) : Prop :=
  match op with
  | .asl => r.toNat = 2 * v.toNat % 256 ∧
      CC.Cells old new (some h) (some (decide (r.toInt < 0))) (some (decide (r = 0)))
        (some (overflows8 (2 * v.toInt))) (some (decide (128 ≤ v.toNat)))
  | .asr => r.toInt = v.toInt / 2 ∧
      CC.Cells old new (some h) (some (decide (v.toInt < 0))) (some (decide (r = 0))) none (some (decide (v.toNat % 2 = 1)))
  | .lsr => r.toNat = v.toNat / 2 ∧
      CC.Cells old new none (some false) (some (decide (r = 0))) none (some (decide (v.toNat % 2 = 1)))
  | .rol => r.toNat = (2 * v.toNat + (CC.get old .c).toNat) % 256 ∧
      CC.Cells old new none (some (decide (r.toInt < 0))) (some (decide (r = 0)))
        (some (overflows8 (2 * v.toInt))) (some (decide (128 ≤ v.toNat)))
  | .ror => r.toNat = v.toNat / 2 + 128 * (CC.get old .c).toNat ∧
      CC.Cells old new none (some (CC.get old .c)) (some (decide (r = 0))) none (some (decide (v.toNat % 2 = 1)))
  | .neg => (r.toNat : Int) = -(v.toNat : Int) % 256 ∧
      CC.Cells old new (some h) (some (decide (r.toInt < 0))) (some (decide (r = 0)))
        (some (decide (v = 0x80))) (some (decide (v ≠ 0)))
  | .com => r.toNat = 255 - v.toNat ∧
      CC.Cells old new none (some (decide (r.toInt < 0))) (some (decide (r = 0))) (some false) (some true)
  | .inc => r.toNat = (v.toNat + 1) % 256 ∧
      CC.Cells old new none (some (decide (r.toInt < 0))) (some (decide (r = 0))) (some (decide (v = 0x7F))) none
  | .dec => (r.toNat : Int) = ((v.toNat : Int) - 1) % 256 ∧
      CC.Cells old new none (some (decide (r.toInt < 0))) (some (decide (r = 0))) (some (decide (v = 0x80))) none
  | .clr => r = 0 ∧ CC.Cells old new none (some false) (some true) (some false) (some false)

/-- How many half carries an operation draws (R13). -/
def Unary.draws : Unary → Nat
  | .asl => 1
  | .asr => 1
  | .neg => 1
  | .lsr => 0
  | .rol => 0
  | .ror => 0
  | .com => 0
  | .inc => 0
  | .dec => 0
  | .clr => 0

/-! ### Memory -/

/-- The bytes of `bs` stand from `a` up, where that is ram; every other byte, and every byte outside ram, reads as before
(R41, R44, R49). -/
def Stored (a : Word) (bs : List Byte) (s t : State) : Prop :=
  (∀ k : Nat, ∀ b ∈ bs[k]?, s.region (a + BitVec.ofNat 16 k) = .ram → readByte t (a + BitVec.ofNat 16 k) = .ok b) ∧
  (∀ b : Word, (∀ k < bs.length, b ≠ a + BitVec.ofNat 16 k) ∨ s.region b ≠ .ram → readByte t b = readByte s b)

/-- The bytes of a word as memory holds it: the high byte first (R42). -/
def wordBytes (v : Word) : List Byte := [hiByte v, loByte v]

/-- `u` is `s` with the index register `r` moved by `d`, and nothing else changed (R75, R76). -/
def IndexMoved (r : IndexReg) (d : Word) (s u : State) : Prop :=
  u.index r = s.index r + d ∧ (∀ q : IndexReg, q ≠ r → u.index q = s.index q) ∧
  u = { s with x := u.x, y := u.y, u := u.u, s := u.s }

/-! ### Stacks -/

/-- What a push of a register list leaves on the stack, from the lowest address up: CC A B DP X Y U-or-S PC (R84,
R306). -/
def frameBytes (r : StackReg) (l : RegList) (s : State) : List Byte :=
  (if l.cc then [s.cc] else []) ++ (if l.a then [s.a] else []) ++ (if l.b then [s.b] else []) ++
  (if l.dp then [s.dp] else []) ++ (if l.x then wordBytes s.x else []) ++ (if l.y then wordBytes s.y else []) ++
  (if l.other then wordBytes (s.otherSp r) else []) ++ (if l.pc then wordBytes s.pc else [])

/-- The entire state as SWI, SWI2, SWI3, CWAI, IRQ and NMI stack it, with the CC byte `cc` (R306). -/
def entireFrame (cc : Byte) (s : State) : List Byte :=
  [cc, s.a, s.b, s.dp] ++ wordBytes s.x ++ wordBytes s.y ++ wordBytes s.u ++ wordBytes s.pc

/-- The short state as FIRQ stacks it (R306). -/
def shortFrame (cc : Byte) (s : State) : List Byte := cc :: wordBytes s.pc

/-- `t` is `s` after an entry: the frame is on the S stack, CC is `cc`, and PC is what the vector at `v` holds after the
stacking (R305 to R310). -/
def Entered (frame : List Byte) (cc : Byte) (v : Word) (s t : State) : Prop :=
  t = { s with s := s.s - BitVec.ofNat 16 frame.length, cc := cc, pc := t.pc, mem := t.mem } ∧
  Stored (s.s - BitVec.ofNat 16 frame.length) frame s t ∧ readWord t v = .ok t.pc

/-! ### What an instruction may change: the tables of the spec -/

/-- The flags an instruction may write: the CC cells of its row that are not empty, with the bits E, F and I that its rule
writes; all eight where it writes CC as a whole (R5, R28 to R34, and the rules of files 40 to 44). -/
def writtenFlags : Instr → List Flag
  | .puls l | .pulu l => if l.cc then [.e, .f, .h, .i, .n, .z, .v, .c] else []
  | .tfr _ r2 => if r2 = .r8 .cc then [.e, .f, .h, .i, .n, .z, .v, .c] else []
  | .exg r1 r2 => if r1 = .r8 .cc ∨ r2 = .r8 .cc then [.e, .f, .h, .i, .n, .z, .v, .c] else []
  | .andcc _ | .orcc _ | .cwai _ | .rti => [.e, .f, .h, .i, .n, .z, .v, .c]
  | .abx | .jmp _ | .jsr _ | .leas _ | .leau _ | .nop | .pshs _ | .pshu _ | .rts | .sync | .bcc _ | .lbcc _ |
    .bcs _ | .lbcs _ | .beq _ | .lbeq _ | .bge _ | .lbge _ | .bgt _ | .lbgt _ | .bhi _ | .lbhi _ | .bhs _ |
    .lbhs _ | .ble _ | .lble _ | .blo _ | .lblo _ | .bls _ | .lbls _ | .blt _ | .lblt _ | .bmi _ | .lbmi _ |
    .bne _ | .lbne _ | .bpl _ | .lbpl _ | .bra _ | .lbra _ | .brn _ | .lbrn _ | .bsr _ | .lbsr _ | .bvc _ |
    .lbvc _ | .bvs _ | .lbvs _ => []
  | .adca _ | .adcb _ | .adda _ | .addb _ | .asla | .aslb | .asl _ | .cmpa _ | .cmpb _ | .lsla | .lslb |
    .lsl _ | .nega | .negb | .neg _ | .sbca _ | .sbcb _ | .suba _ | .subb _ => [.h, .n, .z, .v, .c]
  | .addd _ | .clra | .clrb | .clr _ | .cmpd _ | .cmps _ | .cmpu _ | .cmpx _ | .cmpy _ | .coma | .comb |
    .com _ | .daa | .rola | .rolb | .rol _ | .subd _ => [.n, .z, .v, .c]
  | .anda _ | .andb _ | .bita _ | .bitb _ | .deca | .decb | .dec _ | .eora _ | .eorb _ | .inca | .incb |
    .inc _ | .lda _ | .ldb _ | .ldd _ | .lds _ | .ldu _ | .ldx _ | .ldy _ | .ora _ | .orb _ | .sex | .sta _ |
    .stb _ | .std _ | .sts _ | .stu _ | .stx _ | .sty _ | .tsta | .tstb | .tst _ => [.n, .z, .v]
  | .asra | .asrb | .asr _ => [.h, .n, .z, .c]
  | .leax _ | .leay _ => [.z]
  | .lsra | .lsrb | .lsr _ | .rora | .rorb | .ror _ => [.n, .z, .c]
  | .mul => [.z, .c]
  | .swi => [.e, .f, .i]
  | .swi2 | .swi3 => [.e]

/-- The base register that an indexed address changes, if any (R75, R76). -/
def indexedUpdates : Indexed → List Reg
  | .postInc1 r | .postInc2 r _ | .preDec1 r | .preDec2 r _ =>
    match r with
    | .x => [.r16 .x]
    | .y => [.r16 .y]
    | .u => [.r16 .u]
    | .s => [.r16 .s]
  | .offset5 _ _ | .noOffset _ _ | .accB _ _ | .accA _ _ | .offset8 _ _ _ | .offset16 _ _ _ | .accD _ _ | .pcr8 _ _ _
  | .pcr16 _ _ _ | .extIndirect _ => []

/-- The register a memory operand's address changes, if any. -/
def memUpdates : MemOperand → List Reg
  | .indexed m => indexedUpdates m
  | .direct _ | .extended _ => []

/-- The register an 8-bit source's address changes, if any. -/
def src8Updates : Src8 → List Reg
  | .imm _ => []
  | .mem m => memUpdates m

/-- The register a 16-bit source's address changes, if any. -/
def src16Updates : Src16 → List Reg
  | .imm _ => []
  | .mem m => memUpdates m

/-- The registers a register list names, for the stack pointer `own` that moves and the other one (R84). -/
def namedRegisters (l : RegList) (own other : Reg) : List Reg :=
  own :: ((if l.other then [other] else []) ++ (if l.y then [.r16 .y] else []) ++ (if l.x then [.r16 .x] else []) ++
    (if l.dp then [.r8 .dp] else []) ++ (if l.b then [.r8 .b] else []) ++ (if l.a then [.r8 .a] else []))

/-- A register with the two halves of D spelt out (R22). -/
def regParts : Reg → List Reg
  | .r16 .d => [.r8 .a, .r8 .b]
  | r => [r]

/-- The registers among A, B, DP, X, Y, U and S that an instruction may write: the "written by" column of the register
inventory (R20), with the base register of auto increment and decrement. -/
def writtenRegisters : Instr → List Reg
  | .tfr _ r2 => regParts r2
  | .exg r1 r2 => regParts r1 ++ regParts r2
  | .pshs _ => [.r16 .s]
  | .pshu _ => [.r16 .u]
  | .puls l => namedRegisters l (.r16 .s) (.r16 .u)
  | .pulu l => namedRegisters l (.r16 .u) (.r16 .s)
  | .abx => [.r16 .x]
  | .adca src | .adda src | .anda src | .eora src | .lda src | .ora src | .sbca src | .suba src => [.r8 .a] ++ src8Updates src
  | .adcb src | .addb src | .andb src | .eorb src | .ldb src | .orb src | .sbcb src | .subb src => [.r8 .b] ++ src8Updates src
  | .addd src | .ldd src | .subd src => [.r8 .a, .r8 .b] ++ src16Updates src
  | .andcc _ | .nop | .orcc _ | .sync | .tsta | .tstb | .bcc _ | .lbcc _ | .bcs _ | .lbcs _ | .beq _ |
    .lbeq _ | .bge _ | .lbge _ | .bgt _ | .lbgt _ | .bhi _ | .lbhi _ | .bhs _ | .lbhs _ | .ble _ | .lble _ |
    .blo _ | .lblo _ | .bls _ | .lbls _ | .blt _ | .lblt _ | .bmi _ | .lbmi _ | .bne _ | .lbne _ | .bpl _ |
    .lbpl _ | .bra _ | .lbra _ | .brn _ | .lbrn _ | .bvc _ | .lbvc _ | .bvs _ | .lbvs _ => []
  | .asla | .asra | .clra | .coma | .daa | .deca | .inca | .lsla | .lsra | .nega | .rola | .rora | .sex => [.r8 .a]
  | .aslb | .asrb | .clrb | .comb | .decb | .incb | .lslb | .lsrb | .negb | .rolb | .rorb => [.r8 .b]
  | .asl m | .asr m | .clr m | .com m | .dec m | .inc m | .jmp m | .lsl m | .lsr m | .neg m | .rol m | .ror m |
    .sta m | .stb m | .std m | .sts m | .stu m | .stx m | .sty m | .tst m => memUpdates m
  | .bita src | .bitb src | .cmpa src | .cmpb src => src8Updates src
  | .cmpd src | .cmps src | .cmpu src | .cmpx src | .cmpy src => src16Updates src
  | .cwai _ | .rts | .swi | .swi2 | .swi3 | .bsr _ | .lbsr _ => [.r16 .s]
  | .jsr m => [.r16 .s] ++ memUpdates m
  | .lds src => [.r16 .s] ++ src16Updates src
  | .ldu src => [.r16 .u] ++ src16Updates src
  | .ldx src => [.r16 .x] ++ src16Updates src
  | .ldy src => [.r16 .y] ++ src16Updates src
  | .leas m => [.r16 .s] ++ indexedUpdates m
  | .leau m => [.r16 .u] ++ indexedUpdates m
  | .leax m => [.r16 .x] ++ indexedUpdates m
  | .leay m => [.r16 .y] ++ indexedUpdates m
  | .mul => [.r8 .a, .r8 .b]
  | .rti => [.r16 .s, .r8 .a, .r8 .b, .r8 .dp, .r16 .x, .r16 .y, .r16 .u]

/-- The addresses of `n` bytes from `a` up, modulo 2^16 (R44). -/
def bytesFrom (a : Word) (n : Nat) : List Word := (List.range n).map (fun k => a + BitVec.ofNat 16 k)

/-- The addresses of `n` bytes from the effective address up; none if the address stops. -/
def bytesAt (m : MemOperand) (n : Nat) (s : State) : List Word :=
  match effectiveAddress m s with
  | .ok (a, _) => bytesFrom a n
  | .error _ => []

/-- The addresses of the bytes an instruction stores to (R45). -/
def storedBytes (i : Instr) (s : State) : List Word :=
  match i with
  | .asl m | .asr m | .clr m | .com m | .dec m | .inc m | .lsl m | .lsr m | .neg m | .rol m | .ror m | .sta m |
    .stb m => bytesAt m 1 s
  | .std m | .sts m | .stu m | .stx m | .sty m => bytesAt m 2 s
  | .jsr m =>
    match effectiveAddress m s with
    | .ok (_, u) => bytesFrom (u.s - 2) 2
    | .error _ => []
  | .bsr _ | .lbsr _ => bytesFrom (s.s - 2) 2
  | .pshs l => bytesFrom (s.s - BitVec.ofNat 16 (frameBytes .s l s).length) (frameBytes .s l s).length
  | .pshu l => bytesFrom (s.u - BitVec.ofNat 16 (frameBytes .u l s).length) (frameBytes .u l s).length
  | .swi | .swi2 | .swi3 | .cwai _ => bytesFrom (s.s - 12) 12
  | .abx | .adca _ | .adcb _ | .adda _ | .addb _ | .addd _ | .anda _ | .andb _ | .andcc _ | .asla | .aslb |
    .asra | .asrb | .bita _ | .bitb _ | .clra | .clrb | .cmpa _ | .cmpb _ | .cmpd _ | .cmps _ | .cmpu _ |
    .cmpx _ | .cmpy _ | .coma | .comb | .daa | .deca | .decb | .eora _ | .eorb _ | .exg _ _ | .inca | .incb |
    .jmp _ | .lda _ | .ldb _ | .ldd _ | .lds _ | .ldu _ | .ldx _ | .ldy _ | .leas _ | .leau _ | .leax _ |
    .leay _ | .lsla | .lslb | .lsra | .lsrb | .mul | .nega | .negb | .nop | .ora _ | .orb _ | .orcc _ |
    .puls _ | .pulu _ | .rola | .rolb | .rora | .rorb | .rti | .rts | .sbca _ | .sbcb _ | .sex | .suba _ |
    .subb _ | .subd _ | .sync | .tfr _ _ | .tsta | .tstb | .tst _ | .bcc _ | .lbcc _ | .bcs _ | .lbcs _ |
    .beq _ | .lbeq _ | .bge _ | .lbge _ | .bgt _ | .lbgt _ | .bhi _ | .lbhi _ | .bhs _ | .lbhs _ | .ble _ |
    .lble _ | .blo _ | .lblo _ | .bls _ | .lbls _ | .blt _ | .lblt _ | .bmi _ | .lbmi _ | .bne _ | .lbne _ |
    .bpl _ | .lbpl _ | .bra _ | .lbra _ | .brn _ | .lbrn _ | .bvc _ | .lbvc _ | .bvs _ | .lbvs _ => []

/-- Whether an instruction loads S, which arms NMI (R309). TFR S,S and EXG S,S count among these: the model's choice, log
20. -/
def loadsS : Instr → Bool
  | .lds _ | .leas _ => true
  | .tfr _ r2 => decide (r2 = .r16 .s)
  | .exg r1 r2 => decide (r1 = .r16 .s ∨ r2 = .r16 .s)
  | .pulu l => l.other
  | .abx | .adca _ | .adcb _ | .adda _ | .addb _ | .addd _ | .anda _ | .andb _ | .andcc _ | .asla | .aslb |
    .asl _ | .asra | .asrb | .asr _ | .bita _ | .bitb _ | .clra | .clrb | .clr _ | .cmpa _ | .cmpb _ |
    .cmpd _ | .cmps _ | .cmpu _ | .cmpx _ | .cmpy _ | .coma | .comb | .com _ | .cwai _ | .daa | .deca | .decb |
    .dec _ | .eora _ | .eorb _ | .inca | .incb | .inc _ | .jmp _ | .jsr _ | .lda _ | .ldb _ | .ldd _ | .ldu _ |
    .ldx _ | .ldy _ | .leau _ | .leax _ | .leay _ | .lsla | .lslb | .lsl _ | .lsra | .lsrb | .lsr _ | .mul |
    .nega | .negb | .neg _ | .nop | .ora _ | .orb _ | .orcc _ | .pshs _ | .pshu _ | .puls _ | .rola | .rolb |
    .rol _ | .rora | .rorb | .ror _ | .rti | .rts | .sbca _ | .sbcb _ | .sex | .sta _ | .stb _ | .std _ |
    .sts _ | .stu _ | .stx _ | .sty _ | .suba _ | .subb _ | .subd _ | .swi | .swi2 | .swi3 | .sync | .tsta |
    .tstb | .tst _ | .bcc _ | .lbcc _ | .bcs _ | .lbcs _ | .beq _ | .lbeq _ | .bge _ | .lbge _ | .bgt _ |
    .lbgt _ | .bhi _ | .lbhi _ | .bhs _ | .lbhs _ | .ble _ | .lble _ | .blo _ | .lblo _ | .bls _ | .lbls _ |
    .blt _ | .lblt _ | .bmi _ | .lbmi _ | .bne _ | .lbne _ | .bpl _ | .lbpl _ | .bra _ | .lbra _ | .brn _ |
    .lbrn _ | .bsr _ | .lbsr _ | .bvc _ | .lbvc _ | .bvs _ | .lbvs _ => false

end Sys2Proof.Machine
end

