-- ==== Sys2Proof/WellFormed.lean ====
section
/-! DEFINITION. Which terms of the syntax are instructions of the hardware. The indexed forms of R80 that have no meaning
cannot be written in the syntax at all; the one check left is the width of a TFR or EXG pair. -/

namespace Sys2Proof

/-- Both registers of a pair have the same width ("any pair of 8 bit or any pair of 16 bit registers", R83). -/
def Reg.sameWidth : Reg → Reg → Bool
  | .r8 _, .r8 _ => true
  | .r16 _, .r16 _ => true
  | .r8 _, .r16 _ => false
  | .r16 _, .r8 _ => false

/-- The well-formedness check: a TFR or EXG pair is of one width (R83, R142, R227); every other term is well formed. -/
def Instr.wellFormed : Instr → Bool
  | .exg r1 r2 | .tfr r1 r2 => r1.sameWidth r2
  | .abx | .asla | .aslb | .asra | .asrb | .clra | .clrb | .coma | .comb | .daa | .deca | .decb | .inca
  | .incb | .lsla | .lslb | .lsra | .lsrb | .mul | .nega | .negb | .nop | .rola | .rolb | .rora | .rorb
  | .rti | .rts | .sex | .swi | .swi2 | .swi3 | .sync | .tsta | .tstb => true
  | .andcc _ | .cwai _ | .orcc _ => true
  | .adca _ | .adcb _ | .adda _ | .addb _ | .anda _ | .andb _ | .bita _ | .bitb _ | .cmpa _ | .cmpb _
  | .eora _ | .eorb _ | .lda _ | .ldb _ | .ora _ | .orb _ | .sbca _ | .sbcb _ | .suba _ | .subb _ => true
  | .addd _ | .cmpd _ | .cmps _ | .cmpu _ | .cmpx _ | .cmpy _ | .ldd _ | .lds _ | .ldu _ | .ldx _ | .ldy _
  | .subd _ => true
  | .asl _ | .asr _ | .clr _ | .com _ | .dec _ | .inc _ | .jmp _ | .jsr _ | .lsl _ | .lsr _ | .neg _ | .rol _
  | .ror _ | .sta _ | .stb _ | .std _ | .sts _ | .stu _ | .stx _ | .sty _ | .tst _ => true
  | .leas _ | .leau _ | .leax _ | .leay _ => true
  | .bcc _ | .bcs _ | .beq _ | .bge _ | .bgt _ | .bhi _ | .bhs _ | .ble _ | .blo _ | .bls _ | .blt _ | .bmi _
  | .bne _ | .bpl _ | .bra _ | .brn _ | .bsr _ | .bvc _ | .bvs _ => true
  | .lbcc _ | .lbcs _ | .lbeq _ | .lbge _ | .lbgt _ | .lbhi _ | .lbhs _ | .lble _ | .lblo _ | .lbls _
  | .lblt _ | .lbmi _ | .lbne _ | .lbpl _ | .lbra _ | .lbrn _ | .lbsr _ | .lbvc _ | .lbvs _ => true
  | .pshs _ | .pshu _ | .puls _ | .pulu _ => true

/-- An instruction of the hardware: the check passes. -/
abbrev Instr.WellFormed (i : Instr) : Prop := i.wellFormed = true

end Sys2Proof
end

