-- ==== Sys2Proof/Certificates/Slice0/Obligations.lean ====
section
/-! DEFINITION. The statements of this model for the provers. Each docstring names the rules of spec/ it formalises; the terms
are those of Sys2Proof/Safety.lean. -/

open Sys2Proof Sys2Proof.Machine

/-- Decoding the encoding of any well-formed instruction gives it back, with its length. (R85, R93, R91,
spec/30_encoding.md) Derived: rests on what R91 marks as general knowledge. -/
def Obligations.EncodedInstructionsDecodeBack : Prop :=
  ∀ (i : Instr) (rest : List Byte), i.WellFormed →
    decode (encode i ++ rest) = .ok (i.canonical, (encode i).length)

/-- Whatever the decoder accepts is well formed and encodes back to the very bytes read. (R85, R86, R87,
spec/30_encoding.md) -/
def Obligations.DecodedBytesEncodeBack : Prop :=
  ∀ (bs : List Byte) (i : Instr) (n : Nat), decode bs = .ok (i, n) →
    i.WellFormed ∧ i.canonical = i ∧ n ≤ bs.length ∧ encode i = bs.take n

/-- Words written out bit by bit from the encoding tables decode to the instructions they stand for. (R86, R87, R68,
R83, R84) Derived: rests on the spec's own decisions D1, D11, D12 (92_eei_decisions.md) and what R83, R84 mark as
general knowledge. -/
def Obligations.WrittenOutWordsDecode : Prop :=
  decode [0b10000110, 0b00010010] = .ok (.lda (.imm 0x12), 2) ∧
  decode [0b11110011, 0b00010010, 0b00110100] = .ok (.addd (.mem (.extended 0x1234)), 3) ∧
  decode [0b00010000, 0b10101110, 0b10111000, 0b00000101] = .ok (.ldy (.mem (.indexed (.offset8 .y 5 true))), 4) ∧
  decode [0b00110000, 0b00011111] = .ok (.leax (.offset5 .x 0b11111), 2) ∧
  decode [0b00010001, 0b10001100, 0b10000000, 0b00000000] = .ok (.cmps (.imm 0x8000), 4) ∧
  decode [0b00011111, 0b10001011] = .ok (.tfr (.r8 .a) (.r8 .dp), 2) ∧
  decode [0b00110100, 0b10000010] =
    .ok (.pshs { pc := true, other := false, y := false, x := false, dp := false, b := false, a := true, cc := false }, 2) ∧
  decode [0b00010000, 0b00100110, 0b00000000, 0b00000010] = .ok (.lbne 2, 4) ∧
  decode [0b00010001, 0b00111111] = .ok (.swi3, 2)

/-- Exactly the opcodes without a row are undefined, on each of the three pages. (R88, R89, R87, R85) Derived: rests
on the spec's own decisions D1, D22 (92_eei_decisions.md) and what R88, R89 mark as general knowledge. -/
def Obligations.OpcodesWithoutARowAreUndefined : Prop :=
  ∀ (op : Byte) (rest : List Byte),
    (decode (op :: rest) = .error (.undefined (.opcode .page1 op)) ↔ op ∈ (
      [0x01, 0x02, 0x05, 0x0B, 0x14, 0x15, 0x18, 0x1B, 0x38, 0x3E, 0x41, 0x42, 0x45, 0x4B, 0x4E, 0x51, 0x52, 0x55,
       0x5B, 0x5E, 0x61, 0x62, 0x65, 0x6B, 0x71, 0x72, 0x75, 0x7B, 0x87, 0x8F, 0xC7, 0xCD, 0xCF] : List Byte)) ∧
    (decode (0x10 :: op :: rest) = .error (.undefined (.opcode .page2 op)) ↔ op ∉ (
      [0x21, 0x22, 0x23, 0x24, 0x25, 0x26, 0x27, 0x28, 0x29, 0x2A, 0x2B, 0x2C, 0x2D, 0x2E, 0x2F, 0x3F, 0x83, 0x93,
       0xA3, 0xB3, 0x8C, 0x9C, 0xAC, 0xBC, 0x8E, 0x9E, 0xAE, 0xBE, 0x9F, 0xAF, 0xBF, 0xCE, 0xDE, 0xEE, 0xFE, 0xDF,
       0xEF, 0xFF] : List Byte)) ∧
    (decode (0x11 :: op :: rest) = .error (.undefined (.opcode .page3 op)) ↔ op ∉ (
      [0x3F, 0x83, 0x93, 0xA3, 0xB3, 0x8C, 0x9C, 0xAC, 0xBC] : List Byte))

/-- Exactly the 39 postbytes of R80 are undefined. (R80) Derived: rests on the spec's own decisions D1
(92_eei_decisions.md). -/
def Obligations.IndexedPostbytesWithoutAMeaning : Prop :=
  ∀ (bs : List Byte) (k : Nat) (pb : Byte), bs[k]? = some pb →
    (decodeIndexed (byteAt bs) DecodeError.undefined k = .error (.undefined (.indexedPostbyte pb)) ↔ pb ∈ (
      [0x87, 0x8A, 0x8E, 0x8F, 0x90, 0x92, 0x97, 0x9A, 0x9E, 0xA7, 0xAA, 0xAE, 0xAF, 0xB0, 0xB2, 0xB7, 0xBA, 0xBE,
       0xBF, 0xC7, 0xCA, 0xCE, 0xCF, 0xD0, 0xD2, 0xD7, 0xDA, 0xDE, 0xDF, 0xE7, 0xEA, 0xEE, 0xEF, 0xF0, 0xF2, 0xF7,
       0xFA, 0xFE, 0xFF] : List Byte)) ∧
    (∀ f : MemOperand → Instr, decodeIndexed (byteAt bs) DecodeError.undefined k = .error (.undefined (.indexedPostbyte pb)) →
      Template.parse (byteAt bs) DecodeError.undefined k (.indexedMem f) = .error (.undefined (.indexedPostbyte pb))) ∧
    (∀ f : Indexed → Instr, decodeIndexed (byteAt bs) DecodeError.undefined k = .error (.undefined (.indexedPostbyte pb)) →
      Template.parse (byteAt bs) DecodeError.undefined k (.indexed f) = .error (.undefined (.indexedPostbyte pb)))

/-- The register codes of TFR and EXG: R1 in the high nibble, R2 in the low one, both of one width, every other
postbyte undefined. (R83, R142, R227, spec/92_eei_decisions.md D1) Derived: rests on the spec's own decisions D1, D11,
D24 (92_eei_decisions.md) and what R83, R142, R227 mark as general knowledge. -/
def Obligations.RegisterPairPostbytes : Prop :=
  (∀ (pb : Byte) (rest : List Byte),
    let table : Nat → Option Reg := fun c =>
      [some (.r16 .d), some (.r16 .x), some (.r16 .y), some (.r16 .u), some (.r16 .s), some (.r16 .pc), none, none,
       some (.r8 .a), some (.r8 .b), some (.r8 .cc), some (.r8 .dp)].getD c none
    match table (pb.toNat / 16), table (pb.toNat % 16) with
    | some r1, some r2 =>
      if r1.sameWidth r2 then
        decode (0x1F :: pb :: rest) = .ok (.tfr r1 r2, 2) ∧ decode (0x1E :: pb :: rest) = .ok (.exg r1 r2, 2)
      else decode (0x1F :: pb :: rest) = .error (.undefined (.registerPair pb)) ∧
        decode (0x1E :: pb :: rest) = .error (.undefined (.registerPair pb))
    | _, _ => decode (0x1F :: pb :: rest) = .error (.undefined (.registerPair pb)) ∧
        decode (0x1E :: pb :: rest) = .error (.undefined (.registerPair pb))) ∧
  (∀ (s : State) (p : Reg8) (q : Reg16),
    exec (.tfr (.r8 p) (.r16 q)) s = .fault (.undefined (.registerPair (pairByte (.r8 p) (.r16 q)))) ∧
    exec (.tfr (.r16 q) (.r8 p)) s = .fault (.undefined (.registerPair (pairByte (.r16 q) (.r8 p)))) ∧
    exec (.exg (.r8 p) (.r16 q)) s = .fault (.undefined (.registerPair (pairByte (.r8 p) (.r16 q)))) ∧
    exec (.exg (.r16 q) (.r8 p)) s = .fault (.undefined (.registerPair (pairByte (.r16 q) (.r8 p)))))

/-- LSL, BHS, BLO and their forms are encoded and executed as ASL, BCC, BCS. (R91, R171, R172, R173, R263, R264, R267,
R268) Derived: rests on what R91 marks as general knowledge. -/
def Obligations.SecondNamesAreTheSameInstruction : Prop :=
  ∀ (i : Instr) (s : State), encode i = encode i.canonical ∧ exec i s = exec i.canonical s ∧
    cycles i s = cycles i.canonical s

/-- A step with no interrupt accepted runs the instruction whose bytes stand at PC, with PC past it. (R304, R25, R55,
spec/60_exceptions.md) Derived: rests on the spec's own decisions D4, D9, D16 (92_eei_decisions.md) and what R304,
R25, R55 mark as general knowledge. -/
def Obligations.StepRunsTheDecodedInstruction : Prop :=
  ∀ (s : State) (bs : List Byte) (i : Instr) (n : Nat),
    s.runState = .running → s.Quiet →
    (∀ k : Nat, ∀ b ∈ bs[k]?, readByte s (s.pc + BitVec.ofNat 16 k) = .ok b) → decode bs = .ok (i, n) →
    i.WellFormed ∧ step s = exec i { s with pc := s.pc + BitVec.ofNat 16 n, irqIn := s.irqIn.tail }

/-- Every step keeps memory canonical, a pending NMI armed, and E set while CWAI waits. (R309, R312, R36, R40)
Derived: rests on the spec's own decisions D16, D18, D27 (92_eei_decisions.md) and what R309, R312 mark as general
knowledge. -/
def Obligations.EveryStepKeepsTheInvariant : Prop :=
  ∀ s t : State, s.Inv → step s = .next t → t.Inv

/-- The state after reset meets the invariant. (R38, R340) Derived: rests on the spec's own decisions D15
(92_eei_decisions.md) and what R38, R340 mark as general knowledge. -/
def Obligations.InvariantHoldsAtReset : Prop :=
  State.reset.Inv

/-- No step changes the platform or any byte outside ram. (R49, R50, R41) Derived: rests on the spec's own decisions
D7, D17 (92_eei_decisions.md) and what R49 marks as general knowledge. -/
def Obligations.NoStepChangesRomOrPlatform : Prop :=
  ∀ s t : State, step s = .next t →
    t.platform = s.platform ∧ ∀ a : Word, s.region a ≠ .ram → readByte t a = readByte s a

/-- On a platform of ram and rom every well-formed instruction completes, in any state. (R300, R41, R43, R315)
Derived: rests on the spec's own decisions D1, D5, D19 (92_eei_decisions.md) and what R300 marks as general knowledge.
-/
def Obligations.NoInstructionStopsWithoutHoles : Prop :=
  ∀ (i : Instr) (s : State), i.WellFormed → s.NoHoles → ∃ t : State, exec i s = .next t ∧ t.NoHoles

/-- No instruction changes a flag outside the CC cells of its row. (R5, R28, R29, R30, R31, R32, R33, R34, R27)
Derived: rests on what R33, R34, R27 mark as general knowledge. -/
def Obligations.FlagFrame : Prop :=
  ∀ (i : Instr) (s t : State), exec i s = .next t → ∀ k : Flag, k ∉ writtenFlags i → CC.get t.cc k = CC.get s.cc k

/-- No instruction changes a register outside the "written by" column of the register inventory. (R20, R21, R22, R23,
R24, R26, R75, R76) Derived: rests on what R22, R24, R26 mark as general knowledge. -/
def Obligations.RegisterFrame : Prop :=
  ∀ (i : Instr) (s t : State), exec i s = .next t →
    (∀ r : Reg8, r ≠ .cc → Reg.r8 r ∉ writtenRegisters i → t.reg8 r = s.reg8 r) ∧
    (∀ r : Reg16, r ≠ .pc → r ≠ .d → Reg.r16 r ∉ writtenRegisters i → t.reg16 r = s.reg16 r)

/-- Every byte of memory outside the bytes an instruction stores to reads as before. (R45, R47, R48, R44) Derived:
rests on the spec's own decisions D4, D6, D29 (92_eei_decisions.md) and what R47, R48, R44 mark as general knowledge.
-/
def Obligations.MemoryFrame : Prop :=
  ∀ (i : Instr) (s t : State), exec i s = .next t → ∀ b : Word, b ∉ storedBytes i s → readByte t b = readByte s b

/-- What an instruction does to run_state, nmi_armed, nmi_pending, inputs and platform; TFR S,S and EXG S,S arm NMI
too (the model's choice, log 20). (R35, R309, R302, R130, R226) R227, R142, R344 (d) and D24 say that TFR r,r and EXG
r,r change nothing; the model reads that of the registers alone. Derived: rests on the spec's own decisions D14, D16,
D18, D21, D27 (92_eei_decisions.md) and what R35, R309, R302, R130, R226 mark as general knowledge. -/
def Obligations.HiddenStateFrame : Prop :=
  ∀ (i : Instr) (s t : State), exec i s = .next t →
    t.nmiPending = s.nmiPending ∧ t.irqIn = s.irqIn ∧ t.platform = s.platform ∧
    t.nmiArmed = (s.nmiArmed || loadsS i) ∧
    (∀ m : Byte, i = .cwai m → t.runState = .cwaiWait) ∧ (i = .sync → t.runState = .syncWait) ∧
    ((∀ m : Byte, i ≠ .cwai m) → i ≠ .sync → t.runState = s.runState)

/-- Direct, extended, offset and PC-relative addresses, modulo 2^16, with no register changed. (R66, R67, R69, R70,
R71, R72, R73, R74, R77) Derived: rests on the spec's own decisions D13 (92_eei_decisions.md) and what R66, R67 mark
as general knowledge. -/
def Obligations.OffsetAddresses : Prop :=
  ∀ (s : State) (r : IndexReg),
    (∀ a : Byte, effectiveAddress (.direct a) s = .ok (BitVec.ofNat 16 (256 * s.dp.toNat + a.toNat), s)) ∧
    (∀ a : Word, effectiveAddress (.extended a) s = .ok (a, s)) ∧
    (∀ o : BitVec 5, effectiveAddress (.indexed (.offset5 r o)) s =
      .ok (BitVec.ofInt 16 ((s.index r).toNat + o.toInt), s)) ∧
    effectiveAddress (.indexed (.noOffset r false)) s = .ok (s.index r, s) ∧
    (∀ o : Byte, effectiveAddress (.indexed (.offset8 r o false)) s =
      .ok (BitVec.ofInt 16 ((s.index r).toNat + o.toInt), s)) ∧
    (∀ o : Word, effectiveAddress (.indexed (.offset16 r o false)) s =
      .ok (BitVec.ofInt 16 ((s.index r).toNat + o.toInt), s)) ∧
    effectiveAddress (.indexed (.accA r false)) s = .ok (BitVec.ofInt 16 ((s.index r).toNat + s.a.toInt), s) ∧
    effectiveAddress (.indexed (.accB r false)) s = .ok (BitVec.ofInt 16 ((s.index r).toNat + s.b.toInt), s) ∧
    effectiveAddress (.indexed (.accD r false)) s =
      .ok (BitVec.ofNat 16 ((s.index r).toNat + 256 * s.a.toNat + s.b.toNat), s) ∧
    (∀ o : Byte, effectiveAddress (.indexed (.pcr8 r o false)) s = .ok (BitVec.ofInt 16 (s.pc.toNat + o.toInt), s)) ∧
    (∀ o : Word, effectiveAddress (.indexed (.pcr16 r o false)) s = .ok (BitVec.ofInt 16 (s.pc.toNat + o.toInt), s))

/-- Post-increment addresses with the old value, pre-decrement with the new one; only the base register changes. (R75,
R76, R344) Derived: rests on the spec's own decisions D24 (92_eei_decisions.md) and what R344 marks as general
knowledge. -/
def Obligations.AutoIncrementAndDecrement : Prop :=
  ∀ (s : State) (r : IndexReg),
    (∃ u, effectiveAddress (.indexed (.postInc1 r)) s = .ok (s.index r, u) ∧ IndexMoved r 1 s u) ∧
    (∃ u, effectiveAddress (.indexed (.postInc2 r false)) s = .ok (s.index r, u) ∧ IndexMoved r 2 s u) ∧
    (∃ u, effectiveAddress (.indexed (.preDec1 r)) s = .ok (s.index r - 1, u) ∧ IndexMoved r (-1) s u) ∧
    (∃ u, effectiveAddress (.indexed (.preDec2 r false)) s = .ok (s.index r - 2, u) ∧ IndexMoved r (-2) s u)

/-- An indirect form addresses what the big-endian pointer at the direct form's address says. (R79, R78, R42) Derived:
rests on the spec's own decisions D3 (92_eei_decisions.md) and what R42 marks as general knowledge. -/
def Obligations.IndirectAddresses : Prop :=
  ∀ (s u : State) (a : Word) (h l : Byte) (r : IndexReg) (o : Byte) (w : Word),
    readByte u a = .ok h → readByte u (a + 1) = .ok l →
    (∀ f ∈ [Indexed.postInc2 r, .preDec2 r, .noOffset r, .accA r, .accB r, .accD r, .offset8 r o, .offset16 r w,
            .pcr8 r o, .pcr16 r w],
      effectiveAddress (.indexed (f false)) s = .ok (a, u) →
      effectiveAddress (.indexed (f true)) s = .ok (BitVec.ofNat 16 (256 * h.toNat + l.toNat), u)) ∧
    effectiveAddress (.indexed (.extIndirect a)) u = .ok (BitVec.ofNat 16 (256 * h.toNat + l.toNat), u)

/-- A 16-bit access is two byte accesses, the high-order byte at the lower address. (R42) Derived: rests on the spec's
own decisions D3 (92_eei_decisions.md) and what R42 marks as general knowledge. -/
def Obligations.WordAccessesAreBigEndian : Prop :=
  (∀ (s : State) (a v : Word), s.region a = .ram → s.region (a + 1) = .ram →
    ∃ t, writeWord s a v = .ok t ∧ t = { s with mem := t.mem } ∧
      readByte t a = .ok (BitVec.ofNat 8 (v.toNat / 256)) ∧ readByte t (a + 1) = .ok (BitVec.ofNat 8 v.toNat) ∧
      (∀ b : Word, b ≠ a → b ≠ a + 1 → readByte t b = readByte s b) ∧ readWord t a = .ok v) ∧
  (∀ (s : State) (a : Word) (h l : Byte), readByte s a = .ok h → readByte s (a + 1) = .ok l →
    readWord s a = .ok (BitVec.ofNat 16 (256 * h.toNat + l.toNat)))

/-- Ram reads and writes, rom reads and ignores writes, device and absent addresses stop by name. (R41, R49, R50,
spec/20_memory.md) Derived: rests on the spec's own decisions D7, D17 (92_eei_decisions.md) and what R49 marks as
general knowledge. -/
def Obligations.RegionsDecideAccesses : Prop :=
  ∀ (s : State) (a : Word) (v : Byte),
    (s.region a = .ram → ∃ t, writeByte s a v = .ok t ∧ readByte t a = .ok v) ∧
    (s.region a = .rom → writeByte s a v = .ok s ∧ ∃ b, readByte s a = .ok b) ∧
    (s.region a = .device → readByte s a = .error (.refused (.deviceAddress a)) ∧
      writeByte s a v = .error (.refused (.deviceAddress a))) ∧
    (s.region a = .absent → readByte s a = .error (.fault (.absentAddress a)) ∧
      writeByte s a v = .error (.fault (.absentAddress a)))

/-- Pushes decrement then write, pulls read then increment, a word lies high byte at the lower address. (R48) Derived:
rests on the spec's own decisions D29 (92_eei_decisions.md) and what R48 marks as general knowledge. -/
def Obligations.StackPrimitives : Prop :=
  ∀ (r : StackReg) (s : State),
    (∀ v : Byte, s.region (s.sp r - 1) = .ram →
      ∃ t, push8 r v s = .ok t ∧ t = { s.setSp r (s.sp r - 1) with mem := t.mem } ∧ Stored (s.sp r - 1) [v] s t ∧
        pull8 r t = .ok (v, { s with mem := t.mem })) ∧
    (∀ v : Word, s.region (s.sp r - 1) = .ram → s.region (s.sp r - 2) = .ram →
      ∃ t, push16 r v s = .ok t ∧ t = { s.setSp r (s.sp r - 2) with mem := t.mem } ∧
        Stored (s.sp r - 2) (wordBytes v) s t ∧ pull16 r t = .ok (v, { s with mem := t.mem })) ∧
    (∀ v : Byte, readByte s (s.sp r) = .ok v → pull8 r s = .ok (v, s.setSp r (s.sp r + 1))) ∧
    (∀ h l : Byte, readByte s (s.sp r) = .ok h → readByte s (s.sp r + 1) = .ok l →
      pull16 r s = .ok (BitVec.ofNat 16 (256 * h.toNat + l.toNat), s.setSp r (s.sp r + 2)))

/-- ADDA, ADDB, ADCA, ADCB: the sum modulo 256 and H, N, Z, V, C of it. (R101, R102, R103, R104, R8) Derived: rests on
what R8 marks as general knowledge. -/
def Obligations.AddAndAddWithCarry : Prop :=
  ∀ (src : Src8) (s u : State) (m : Byte), operand8 src s = .ok (m, u) →
    (∃ r cc, exec (.adda src) s = .next { u with a := r, cc := cc } ∧
      SumOf u.a m false r u.cc cc) ∧
    (∃ r cc, exec (.addb src) s = .next { u with b := r, cc := cc } ∧
      SumOf u.b m false r u.cc cc) ∧
    (∃ r cc, exec (.adca src) s = .next { u with a := r, cc := cc } ∧
      SumOf u.a m (CC.get s.cc .c) r u.cc cc) ∧
    (∃ r cc, exec (.adcb src) s = .next { u with b := r, cc := cc } ∧
      SumOf u.b m (CC.get s.cc .c) r u.cc cc)

/-- SUBA, SUBB, SBCA, SBCB: the difference modulo 256, N, Z, V, C of it, H free. (R210, R211, R220, R221, R9, R13)
Derived: rests on what R9 marks as general knowledge. -/
def Obligations.SubtractAndSubtractWithBorrow : Prop :=
  ∀ (src : Src8) (s u : State) (m : Byte), operand8 src s = .ok (m, u) →
    (∃ r cc, exec (.suba src) s = .next { u with a := r, cc := cc, draws := u.draws + 1 } ∧
      DifferenceOf u.a m false (Config.freeHalfCarry u.draws) r u.cc cc) ∧
    (∃ r cc, exec (.subb src) s = .next { u with b := r, cc := cc, draws := u.draws + 1 } ∧
      DifferenceOf u.b m false (Config.freeHalfCarry u.draws) r u.cc cc) ∧
    (∃ r cc, exec (.sbca src) s = .next { u with a := r, cc := cc, draws := u.draws + 1 } ∧
      DifferenceOf u.a m (CC.get s.cc .c) (Config.freeHalfCarry u.draws) r u.cc cc) ∧
    (∃ r cc, exec (.sbcb src) s = .next { u with b := r, cc := cc, draws := u.draws + 1 } ∧
      DifferenceOf u.b m (CC.get s.cc .c) (Config.freeHalfCarry u.draws) r u.cc cc)

/-- CMPA and CMPB: the flags of the difference, no register written, H free. (R120, R121, R9, R13) Derived: rests on
what R9 marks as general knowledge. -/
def Obligations.CompareAccumulator : Prop :=
  ∀ (src : Src8) (s u : State) (m : Byte), operand8 src s = .ok (m, u) →
    (∃ r cc, exec (.cmpa src) s = .next { u with cc := cc, draws := u.draws + 1 } ∧
      DifferenceOf u.a m false (Config.freeHalfCarry u.draws) r u.cc cc) ∧
    (∃ r cc, exec (.cmpb src) s = .next { u with cc := cc, draws := u.draws + 1 } ∧
      DifferenceOf u.b m false (Config.freeHalfCarry u.draws) r u.cc cc)

/-- ADDD and SUBD: the 16-bit result into A:B, N, Z, V, C of it, H unchanged. (R105, R222, R10, R11, R22) Derived:
rests on what R22 marks as general knowledge. -/
def Obligations.AddAndSubtractD : Prop :=
  ∀ (src : Src16) (s u : State) (m : Word), operand16 src s = .ok (m, u) →
    (∃ r cc, exec (.addd src) s =
        .next { u with a := BitVec.ofNat 8 (r.toNat / 256), b := BitVec.ofNat 8 r.toNat, cc := cc } ∧
      SumOf16 (BitVec.ofNat 16 (256 * u.a.toNat + u.b.toNat)) m r u.cc cc) ∧
    (∃ r cc, exec (.subd src) s =
        .next { u with a := BitVec.ofNat 8 (r.toNat / 256), b := BitVec.ofNat 8 r.toNat, cc := cc } ∧
      DifferenceOf16 (BitVec.ofNat 16 (256 * u.a.toNat + u.b.toNat)) m r u.cc cc)

/-- CMPD, CMPS, CMPU, CMPX, CMPY: the flags of the 16-bit difference, no register written. (R122, R123, R124, R125,
R126, R11, R344) Derived: rests on the spec's own decisions D24 (92_eei_decisions.md) and what R344 marks as general
knowledge. -/
def Obligations.CompareWordRegister : Prop :=
  ∀ (src : Src16) (s u : State) (m : Word), operand16 src s = .ok (m, u) →
    (∃ r cc, exec (.cmpd src) s = .next { u with cc := cc } ∧ DifferenceOf16 (BitVec.ofNat 16 (256 * u.a.toNat + u.b.toNat)) m r u.cc cc) ∧
    (∃ r cc, exec (.cmps src) s = .next { u with cc := cc } ∧ DifferenceOf16 u.s m r u.cc cc) ∧
    (∃ r cc, exec (.cmpu src) s = .next { u with cc := cc } ∧ DifferenceOf16 u.u m r u.cc cc) ∧
    (∃ r cc, exec (.cmpx src) s = .next { u with cc := cc } ∧ DifferenceOf16 u.x m r u.cc cc) ∧
    (∃ r cc, exec (.cmpy src) s = .next { u with cc := cc } ∧ DifferenceOf16 u.y m r u.cc cc)

/-- ANDA, ANDB, ORA, ORB, EORA, EORB: encoding, cycles, the result bit by bit, N and Z of it, V cleared, H and C
unchanged. (R106, R107, R140, R141, R182, R183) -/
def Obligations.LogicIntoAccumulator : Prop :=
  (Src8Row .anda 0x84 0x94 0xA4 0xB4 2 4 4 5 ∧ Src8Row .andb 0xC4 0xD4 0xE4 0xF4 2 4 4 5 ∧
    Src8Row .ora 0x8A 0x9A 0xAA 0xBA 2 4 4 5 ∧ Src8Row .orb 0xCA 0xDA 0xEA 0xFA 2 4 4 5 ∧
    Src8Row .eora 0x88 0x98 0xA8 0xB8 2 4 4 5 ∧ Src8Row .eorb 0xC8 0xD8 0xE8 0xF8 2 4 4 5) ∧
  ∀ (src : Src8) (s u : State) (m : Byte), operand8 src s = .ok (m, u) →
    (∃ r cc, exec (.anda src) s = .next { u with a := r, cc := cc } ∧ TestedByte r u.cc cc ∧
      ∀ k < 8, r.getLsbD k = (u.a.getLsbD k && m.getLsbD k)) ∧
    (∃ r cc, exec (.andb src) s = .next { u with b := r, cc := cc } ∧ TestedByte r u.cc cc ∧
      ∀ k < 8, r.getLsbD k = (u.b.getLsbD k && m.getLsbD k)) ∧
    (∃ r cc, exec (.ora src) s = .next { u with a := r, cc := cc } ∧ TestedByte r u.cc cc ∧
      ∀ k < 8, r.getLsbD k = (u.a.getLsbD k || m.getLsbD k)) ∧
    (∃ r cc, exec (.orb src) s = .next { u with b := r, cc := cc } ∧ TestedByte r u.cc cc ∧
      ∀ k < 8, r.getLsbD k = (u.b.getLsbD k || m.getLsbD k)) ∧
    (∃ r cc, exec (.eora src) s = .next { u with a := r, cc := cc } ∧ TestedByte r u.cc cc ∧
      ∀ k < 8, r.getLsbD k = (u.a.getLsbD k ^^ m.getLsbD k)) ∧
    (∃ r cc, exec (.eorb src) s = .next { u with b := r, cc := cc } ∧ TestedByte r u.cc cc ∧
      ∀ k < 8, r.getLsbD k = (u.b.getLsbD k ^^ m.getLsbD k))

/-- BITA, BITB, TSTA, TSTB, TST: N and Z of the tested byte, V cleared, nothing else written. (R115, R116, R228, R229,
R230, R12, R47) Derived: rests on the spec's own decisions D6 (92_eei_decisions.md) and what R47 marks as general
knowledge. -/
def Obligations.BitAndTest : Prop :=
  (∀ (src : Src8) (s u : State) (m : Byte), operand8 src s = .ok (m, u) →
    (∃ r cc, exec (.bita src) s = .next { u with cc := cc } ∧ TestedByte r u.cc cc ∧
      ∀ k < 8, r.getLsbD k = (u.a.getLsbD k && m.getLsbD k)) ∧
    (∃ r cc, exec (.bitb src) s = .next { u with cc := cc } ∧ TestedByte r u.cc cc ∧
      ∀ k < 8, r.getLsbD k = (u.b.getLsbD k && m.getLsbD k))) ∧
  (∀ s : State,
    (∃ cc, exec .tsta s = .next { s with cc := cc } ∧ TestedByte s.a s.cc cc) ∧
    (∃ cc, exec .tstb s = .next { s with cc := cc } ∧ TestedByte s.b s.cc cc)) ∧
  (∀ (m : MemOperand) (s u : State) (a : Word) (v : Byte), effectiveAddress m s = .ok (a, u) → readByte u a = .ok v →
    ∃ cc, exec (.tst m) s = .next { u with cc := cc } ∧ TestedByte v u.cc cc)

/-- LDA, LDB, LDD, LDS, LDU, LDX, LDY: the register becomes the operand, N and Z of it, V cleared; LDS arms NMI.
(R160, R161, R162, R163, R164, R165, R166, R12, R309) Derived: rests on the spec's own decisions D16, D18
(92_eei_decisions.md) and what R163, R309 mark as general knowledge. -/
def Obligations.LoadsFromMemory : Prop :=
  (∀ (src : Src8) (s u : State) (m : Byte), operand8 src s = .ok (m, u) →
    ∃ cc, TestedByte m u.cc cc ∧ exec (.lda src) s = .next { u with a := m, cc := cc } ∧
      exec (.ldb src) s = .next { u with b := m, cc := cc }) ∧
  (∀ (src : Src16) (s u : State) (m : Word), operand16 src s = .ok (m, u) →
    ∃ cc, TestedWord m u.cc cc ∧
      exec (.ldd src) s = .next { u with a := BitVec.ofNat 8 (m.toNat / 256), b := BitVec.ofNat 8 m.toNat, cc := cc } ∧
      exec (.lds src) s = .next { u with s := m, cc := cc, nmiArmed := true } ∧
      exec (.ldu src) s = .next { u with u := m, cc := cc } ∧
      exec (.ldx src) s = .next { u with x := m, cc := cc } ∧
      exec (.ldy src) s = .next { u with y := m, cc := cc })

/-- STA and STB: the byte at the effective address, N and Z of it, V cleared. (R213, R214, R12, R344, R49) Derived:
rests on the spec's own decisions D7, D17, D24 (92_eei_decisions.md) and what R344, R49 mark as general knowledge. -/
def Obligations.StoreAccumulator : Prop :=
  ∀ (m : MemOperand) (s u : State) (a : Word), effectiveAddress m s = .ok (a, u) → u.Usable a →
    (∃ cc t, exec (.sta m) s = .next t ∧ t = { u with cc := cc, mem := t.mem } ∧ TestedByte u.a u.cc cc ∧
      Stored a [u.a] u t) ∧
    (∃ cc t, exec (.stb m) s = .next t ∧ t = { u with cc := cc, mem := t.mem } ∧ TestedByte u.b u.cc cc ∧
      Stored a [u.b] u t)

/-- STD, STS, STU, STX, STY: the word at the effective address, high byte first, N and Z of it, V cleared. (R215,
R216, R217, R218, R219, R12, R42, R344) Derived: rests on the spec's own decisions D3, D24 (92_eei_decisions.md) and
what R42, R344 mark as general knowledge. -/
def Obligations.StoreWordRegister : Prop :=
  ∀ (m : MemOperand) (s u : State) (a : Word), effectiveAddress m s = .ok (a, u) → u.Usable a → u.Usable (a + 1) →
    (∃ cc t, exec (.std m) s = .next t ∧ t = { u with cc := cc, mem := t.mem } ∧
      TestedWord (BitVec.ofNat 16 (256 * u.a.toNat + u.b.toNat)) u.cc cc ∧ Stored a (wordBytes (BitVec.ofNat 16 (256 * u.a.toNat + u.b.toNat))) u t) ∧
    (∃ cc t, exec (.sts m) s = .next t ∧ t = { u with cc := cc, mem := t.mem } ∧
      TestedWord u.s u.cc cc ∧ Stored a (wordBytes u.s) u t) ∧
    (∃ cc t, exec (.stu m) s = .next t ∧ t = { u with cc := cc, mem := t.mem } ∧
      TestedWord u.u u.cc cc ∧ Stored a (wordBytes u.u) u t) ∧
    (∃ cc t, exec (.stx m) s = .next t ∧ t = { u with cc := cc, mem := t.mem } ∧
      TestedWord u.x u.cc cc ∧ Stored a (wordBytes u.x) u t) ∧
    (∃ cc t, exec (.sty m) s = .next t ∧ t = { u with cc := cc, mem := t.mem } ∧
      TestedWord u.y u.cc cc ∧ Stored a (wordBytes u.y) u t)

/-- ASL, LSL, ROL on A, B and memory: twice the value (ROL: plus the old carry) modulo 256, C the bit shifted out, V
the sign change. (R109, R110, R111, R171, R172, R173, R202, R203, R204, R13) Derived: rests on what R109, R110, R111,
R202, R203, R204 mark as general knowledge. -/
def Obligations.ShiftsAndRotatesLeft : Prop :=
  (∀ s : State,
    (∀ p ∈ [(Instr.asla, Unary.asl), (Instr.lsla, Unary.asl), (Instr.rola, Unary.rol)],
      ∃ r cc, exec p.1 s = .next { s with a := r, cc := cc, draws := s.draws + p.2.draws } ∧
        p.2.Gives s.a (Config.freeHalfCarry s.draws) r s.cc cc) ∧
    (∀ p ∈ [(Instr.aslb, Unary.asl), (Instr.lslb, Unary.asl), (Instr.rolb, Unary.rol)],
      ∃ r cc, exec p.1 s = .next { s with b := r, cc := cc, draws := s.draws + p.2.draws } ∧
        p.2.Gives s.b (Config.freeHalfCarry s.draws) r s.cc cc)) ∧
  (∀ (m : MemOperand) (s u : State) (a : Word) (v : Byte), effectiveAddress m s = .ok (a, u) → readByte u a = .ok v →
    ∀ p ∈ [(Instr.asl m, Unary.asl), (Instr.lsl m, Unary.asl), (Instr.rol m, Unary.rol)],
      ∃ r cc t, exec p.1 s = .next t ∧ t = { u with cc := cc, mem := t.mem, draws := u.draws + p.2.draws } ∧
        p.2.Gives v (Config.freeHalfCarry u.draws) r u.cc cc ∧ Stored a [r] u t)

/-- ASR, LSR, ROR on A, B and memory: signed half, unsigned half, half with the old carry on top; C the bit shifted
out, V unchanged. (R112, R113, R114, R174, R175, R176, R205, R206, R207, R13) Derived: rests on the spec's own
decisions D28 (92_eei_decisions.md). -/
def Obligations.ShiftsAndRotatesRight : Prop :=
  (∀ s : State,
    (∀ p ∈ [(Instr.asra, Unary.asr), (Instr.lsra, Unary.lsr), (Instr.rora, Unary.ror)],
      ∃ r cc, exec p.1 s = .next { s with a := r, cc := cc, draws := s.draws + p.2.draws } ∧
        p.2.Gives s.a (Config.freeHalfCarry s.draws) r s.cc cc) ∧
    (∀ p ∈ [(Instr.asrb, Unary.asr), (Instr.lsrb, Unary.lsr), (Instr.rorb, Unary.ror)],
      ∃ r cc, exec p.1 s = .next { s with b := r, cc := cc, draws := s.draws + p.2.draws } ∧
        p.2.Gives s.b (Config.freeHalfCarry s.draws) r s.cc cc)) ∧
  (∀ (m : MemOperand) (s u : State) (a : Word) (v : Byte), effectiveAddress m s = .ok (a, u) → readByte u a = .ok v →
    ∀ p ∈ [(Instr.asr m, Unary.asr), (Instr.lsr m, Unary.lsr), (Instr.ror m, Unary.ror)],
      ∃ r cc t, exec p.1 s = .next t ∧ t = { u with cc := cc, mem := t.mem, draws := u.draws + p.2.draws } ∧
        p.2.Gives v (Config.freeHalfCarry u.draws) r u.cc cc ∧ Stored a [r] u t)

/-- NEG and COM on A, B and memory: the two's and the one's complement with their flags. (R178, R179, R180, R127,
R128, R129, R9, R13) Derived: rests on what R178, R179, R180, R9 mark as general knowledge. -/
def Obligations.NegateAndComplement : Prop :=
  (∀ s : State,
    (∀ p ∈ [(Instr.nega, Unary.neg), (Instr.coma, Unary.com)],
      ∃ r cc, exec p.1 s = .next { s with a := r, cc := cc, draws := s.draws + p.2.draws } ∧
        p.2.Gives s.a (Config.freeHalfCarry s.draws) r s.cc cc) ∧
    (∀ p ∈ [(Instr.negb, Unary.neg), (Instr.comb, Unary.com)],
      ∃ r cc, exec p.1 s = .next { s with b := r, cc := cc, draws := s.draws + p.2.draws } ∧
        p.2.Gives s.b (Config.freeHalfCarry s.draws) r s.cc cc)) ∧
  (∀ (m : MemOperand) (s u : State) (a : Word) (v : Byte), effectiveAddress m s = .ok (a, u) → readByte u a = .ok v →
    ∀ p ∈ [(Instr.neg m, Unary.neg), (Instr.com m, Unary.com)],
      ∃ r cc t, exec p.1 s = .next t ∧ t = { u with cc := cc, mem := t.mem, draws := u.draws + p.2.draws } ∧
        p.2.Gives v (Config.freeHalfCarry u.draws) r u.cc cc ∧ Stored a [r] u t)

/-- INC, DEC, CLR on A, B and memory. (R143, R144, R145, R132, R133, R134, R117, R118, R119) Derived: rests on the
spec's own decisions D6 (92_eei_decisions.md) and what R143, R144, R145, R132, R133, R134 mark as general knowledge.
-/
def Obligations.IncrementDecrementClear : Prop :=
  (∀ s : State,
    (∀ p ∈ [(Instr.inca, Unary.inc), (Instr.deca, Unary.dec), (Instr.clra, Unary.clr)],
      ∃ r cc, exec p.1 s = .next { s with a := r, cc := cc, draws := s.draws + p.2.draws } ∧
        p.2.Gives s.a (Config.freeHalfCarry s.draws) r s.cc cc) ∧
    (∀ p ∈ [(Instr.incb, Unary.inc), (Instr.decb, Unary.dec), (Instr.clrb, Unary.clr)],
      ∃ r cc, exec p.1 s = .next { s with b := r, cc := cc, draws := s.draws + p.2.draws } ∧
        p.2.Gives s.b (Config.freeHalfCarry s.draws) r s.cc cc)) ∧
  (∀ (m : MemOperand) (s u : State) (a : Word) (v : Byte), effectiveAddress m s = .ok (a, u) → readByte u a = .ok v →
    ∀ p ∈ [(Instr.inc m, Unary.inc), (Instr.dec m, Unary.dec), (Instr.clr m, Unary.clr)],
      ∃ r cc t, exec p.1 s = .next t ∧ t = { u with cc := cc, mem := t.mem, draws := u.draws + p.2.draws } ∧
        p.2.Gives v (Config.freeHalfCarry u.draws) r u.cc cc ∧ Stored a [r] u t)

/-- CLRA, CLRB, COMA, COMB, LSRA, LSRB: encoding, cycles, result and flags. (R117, R118, R127, R128, R174, R175) -/
def Obligations.ClearComplementShiftAccumulator : Prop :=
  (encode .clra = [0x4F] ∧ encode .clrb = [0x5F] ∧ encode .coma = [0x43] ∧ encode .comb = [0x53] ∧
    encode .lsra = [0x44] ∧ encode .lsrb = [0x54]) ∧
  ∀ s : State,
    (∀ i ∈ [Instr.clra, .clrb, .coma, .comb, .lsra, .lsrb], cycles i s = .exactly 2) ∧
    (∀ p ∈ [(Instr.clra, Unary.clr), (Instr.coma, Unary.com), (Instr.lsra, Unary.lsr)],
      ∃ r cc, exec p.1 s = .next { s with a := r, cc := cc } ∧ p.2.Gives s.a false r s.cc cc) ∧
    (∀ p ∈ [(Instr.clrb, Unary.clr), (Instr.comb, Unary.com), (Instr.lsrb, Unary.lsr)],
      ∃ r cc, exec p.1 s = .next { s with b := r, cc := cc } ∧ p.2.Gives s.b false r s.cc cc)

/-- MUL and SEX: encoding, cycles, result and flags. (R177, R212, spec/92_eei_decisions.md D25,
spec/92_eei_decisions.md D26) Derived: rests on the spec's own decisions D25, D26 (92_eei_decisions.md) and what R177,
R212 mark as general knowledge. -/
def Obligations.MulAndSex : Prop :=
  (encode .mul = [0x3D] ∧ encode .sex = [0x1D]) ∧
  ∀ s : State,
    (cycles .mul s = .exactly 11 ∧ cycles .sex s = .exactly 2) ∧
    (∃ cc, exec .mul s =
        .next { s with a := BitVec.ofNat 8 (s.a.toNat * s.b.toNat / 256), b := BitVec.ofNat 8 (s.a.toNat * s.b.toNat), cc := cc } ∧
      CC.Cells s.cc cc none none (some (decide (s.a.toNat * s.b.toNat = 0))) none
        (some (decide (s.a.toNat * s.b.toNat / 128 % 2 = 1)))) ∧
    (∃ r cc, exec .sex s = .next { s with a := r, cc := cc } ∧ (join r s.b).toInt = s.b.toInt ∧
      CC.Cells s.cc cc none (some (decide (s.b.toInt < 0))) (some (decide (s.b = 0))) (some false) none)

/-- DAA: the correction of A by its digits, H and C, and the flags. (R131) Derived: rests on the spec's own decisions
D25 (92_eei_decisions.md) and what R131 marks as general knowledge. -/
def Obligations.DecimalAdjust : Prop :=
  ∀ s : State, ∃ r cc, exec .daa s = .next { s with a := r, cc := cc } ∧
    let lo := s.a.toNat % 16
    let hi := s.a.toNat / 16
    let sum := s.a.toNat + (if CC.get s.cc .h = true ∨ 9 < lo then 6 else 0) +
      (if CC.get s.cc .c = true ∨ 9 < hi ∨ (8 < hi ∧ 9 < lo) then 96 else 0)
    r.toNat = sum % 256 ∧
      CC.Cells s.cc cc none (some (decide (r.toInt < 0))) (some (decide (r = 0))) (some false)
        (some (CC.get s.cc .c || decide (256 ≤ sum)))

/-- ADDA or ADCA of two packed decimal numbers followed by DAA gives their decimal sum. (R131, R101, R103, R8)
Derived: rests on the spec's own decisions D25 (92_eei_decisions.md) and what R131, R8 mark as general knowledge. -/
def Obligations.DaaCorrectsDecimalSums : Prop :=
  ∀ (src : Src8) (s u : State) (m : Byte), operand8 src s = .ok (m, u) →
    u.a.toNat % 16 ≤ 9 → u.a.toNat / 16 ≤ 9 → m.toNat % 16 ≤ 9 → m.toNat / 16 ≤ 9 →
    ∀ p ∈ [(Instr.adda src, false), (Instr.adca src, CC.get s.cc .c)],
      ∃ t w, exec p.1 s = .next t ∧ exec .daa t = .next w ∧
        let sum := (10 * (u.a.toNat / 16) + u.a.toNat % 16) + (10 * (m.toNat / 16) + m.toNat % 16) + p.2.toNat
        w.a.toNat = 16 * (sum % 100 / 10) + sum % 10 ∧ CC.get w.cc .c = decide (100 ≤ sum)

/-- LEAX, LEAY, LEAS, LEAU: the register becomes the effective address; Z for X and Y only; LEAS arms NMI. (R167,
R168, R169, R170, R309, R344) Derived: rests on the spec's own decisions D16, D18, D24 (92_eei_decisions.md) and what
R167, R309, R344 mark as general knowledge. -/
def Obligations.LoadEffectiveAddress : Prop :=
  ∀ (m : Indexed) (s u : State) (a : Word), indexedEA m s = .ok (a, u) →
    (∃ cc, CC.Cells u.cc cc none none (some (decide (a = 0))) none none ∧
      exec (.leax m) s = .next { u with x := a, cc := cc } ∧ exec (.leay m) s = .next { u with y := a, cc := cc }) ∧
    exec (.leas m) s = .next { u with s := a, nmiArmed := true } ∧
    exec (.leau m) s = .next { u with u := a }

/-- TFR: R2 becomes R1, every other register stays; a transfer to S arms NMI, TFR S,S too (the model's choice, log
20). (R227, R25, R22, R309) Derived: rests on the spec's own decisions D1, D4, D16, D18 (92_eei_decisions.md) and what
R227, R25, R22, R309 mark as general knowledge. -/
def Obligations.TransferBetweenRegisters : Prop :=
  ∀ s : State,
    (∀ p q : Reg16, ∃ t, exec (.tfr (.r16 p) (.r16 q)) s = .next t ∧
      (∀ k : Reg16, t.reg16 k = if k = q then s.reg16 p else s.reg16 k) ∧
      t = { s with a := t.a, b := t.b, x := t.x, y := t.y, u := t.u, s := t.s, pc := t.pc,
                   nmiArmed := s.nmiArmed || decide (q = .s) }) ∧
    (∀ p q : Reg8, ∃ t, exec (.tfr (.r8 p) (.r8 q)) s = .next t ∧
      (∀ k : Reg8, t.reg8 k = if k = q then s.reg8 p else s.reg8 k) ∧
      t = { s with a := t.a, b := t.b, cc := t.cc, dp := t.dp })

/-- EXG: R1 and R2 change places, every other register stays; S among them arms NMI, EXG S,S too (the model's choice,
log 20). (R142, R25, R22, R309, R344) Derived: rests on the spec's own decisions D1, D4, D16, D18, D24
(92_eei_decisions.md) and what R142, R25, R22, R309, R344 mark as general knowledge. -/
def Obligations.ExchangeRegisters : Prop :=
  ∀ s : State,
    (∀ p q : Reg16, ∃ t, exec (.exg (.r16 p) (.r16 q)) s = .next t ∧
      (∀ k : Reg16, t.reg16 k = if k = p then s.reg16 q else if k = q then s.reg16 p else s.reg16 k) ∧
      t = { s with a := t.a, b := t.b, x := t.x, y := t.y, u := t.u, s := t.s, pc := t.pc,
                   nmiArmed := s.nmiArmed || decide (p = .s ∨ q = .s) }) ∧
    (∀ p q : Reg8, ∃ t, exec (.exg (.r8 p) (.r8 q)) s = .next t ∧
      (∀ k : Reg8, t.reg8 k = if k = p then s.reg8 q else if k = q then s.reg8 p else s.reg8 k) ∧
      t = { s with a := t.a, b := t.b, cc := t.cc, dp := t.dp })

/-- PSHS and PSHU: the named registers below the old pointer as CC A B DP X Y U-or-S PC; 5 cycles plus one a byte.
(R185, R186, R84, R48, R25, R346) Derived: rests on the spec's own decisions D4, D12, D29, D30 (92_eei_decisions.md)
and what R185, R186, R84, R48, R25, R346 mark as general knowledge. -/
def Obligations.PushRegisterList : Prop :=
  ∀ (l : RegList) (s : State),
    cycles (.pshs l) s = .exactly (5 + (frameBytes .s l s).length) ∧
    cycles (.pshu l) s = .exactly (5 + (frameBytes .u l s).length) ∧ (s.NoHoles →
    (∃ t, exec (.pshs l) s = .next t ∧
      t = { s with s := s.s - BitVec.ofNat 16 (frameBytes .s l s).length, mem := t.mem } ∧
      Stored (s.s - BitVec.ofNat 16 (frameBytes .s l s).length) (frameBytes .s l s) s t) ∧
    (∃ t, exec (.pshu l) s = .next t ∧
      t = { s with u := s.u - BitVec.ofNat 16 (frameBytes .u l s).length, mem := t.mem } ∧
      Stored (s.u - BitVec.ofNat 16 (frameBytes .u l s).length) (frameBytes .u l s) s t))

/-- PULS and PULU: the named registers from the stack as CC A B DP X Y U-or-S PC, the rest unchanged; 5 cycles plus
one a byte. (R200, R201, R84, R48, R309, R346) Derived: rests on the spec's own decisions D12, D16, D18, D29, D30
(92_eei_decisions.md) and what R200, R201, R84, R48, R309, R346 mark as general knowledge. -/
def Obligations.PullRegisterList : Prop :=
  ∀ (l : RegList) (s : State),
    cycles (.puls l) s = .exactly (5 + (frameBytes .s l s).length) ∧
    cycles (.pulu l) s = .exactly (5 + (frameBytes .u l s).length) ∧ (s.NoHoles →
    (∃ t, exec (.puls l) s = .next t ∧
      t = { s with cc := if l.cc then t.cc else s.cc, a := if l.a then t.a else s.a, b := if l.b then t.b else s.b,
                   dp := if l.dp then t.dp else s.dp, x := if l.x then t.x else s.x, y := if l.y then t.y else s.y,
                   u := if l.other then t.u else s.u, pc := if l.pc then t.pc else s.pc,
                   s := s.s + BitVec.ofNat 16 (frameBytes .s l t).length } ∧
      ∀ k : Nat, ∀ b ∈ (frameBytes .s l t)[k]?, readByte s (s.s + BitVec.ofNat 16 k) = .ok b) ∧
    (∃ t, exec (.pulu l) s = .next t ∧
      t = { s with cc := if l.cc then t.cc else s.cc, a := if l.a then t.a else s.a, b := if l.b then t.b else s.b,
                   dp := if l.dp then t.dp else s.dp, x := if l.x then t.x else s.x, y := if l.y then t.y else s.y,
                   s := if l.other then t.s else s.s, pc := if l.pc then t.pc else s.pc,
                   nmiArmed := s.nmiArmed || l.other,
                   u := s.u + BitVec.ofNat 16 (frameBytes .u l t).length } ∧
      ∀ k : Nat, ∀ b ∈ (frameBytes .u l t)[k]?, readByte s (s.u + BitVec.ofNat 16 k) = .ok b))

/-- A pull of the same list restores what a push saved. (R84, R185, R186, R200, R201) Derived: rests on the spec's own
decisions D12, D18 (92_eei_decisions.md) and what R84, R185, R186, R200, R201 mark as general knowledge. -/
def Obligations.PullRestoresPush : Prop :=
  ∀ (l : RegList) (s : State),
    ((∀ k : Nat, k < 12 → s.region (s.s - BitVec.ofNat 16 (k + 1)) = .ram) →
      ∃ t, exec (.pshs l) s = .next t ∧ exec (.puls l) t = .next { s with mem := t.mem }) ∧
    ((∀ k : Nat, k < 12 → s.region (s.u - BitVec.ofNat 16 (k + 1)) = .ram) →
      ∃ t, exec (.pshu l) s = .next t ∧
        exec (.pulu l) t = .next { s with mem := t.mem, nmiArmed := s.nmiArmed || l.other })

/-- JMP, JSR, BSR, LBSR, RTS: the target, and the return address on the S stack. (R146, R147, R209, R283, R284, R344,
R25) Derived: rests on the spec's own decisions D4, D24, D29 (92_eei_decisions.md) and what R147, R209, R283, R284,
R344, R25 mark as general knowledge. -/
def Obligations.JumpsCallsAndReturns : Prop :=
  (∀ (m : MemOperand) (s u : State) (a : Word), effectiveAddress m s = .ok (a, u) →
    exec (.jmp m) s = .next { u with pc := a } ∧
    (u.Usable (u.s - 1) → u.Usable (u.s - 2) →
      ∃ t, exec (.jsr m) s = .next t ∧ t = { u with s := u.s - 2, pc := a, mem := t.mem } ∧
        Stored (u.s - 2) (wordBytes u.pc) u t)) ∧
  (∀ (s : State) (o : Byte) (w : Word), s.Usable (s.s - 1) → s.Usable (s.s - 2) →
    (∃ t, exec (.bsr o) s = .next t ∧
      t = { s with s := s.s - 2, pc := BitVec.ofInt 16 (s.pc.toNat + o.toInt), mem := t.mem } ∧
      Stored (s.s - 2) (wordBytes s.pc) s t) ∧
    (∃ t, exec (.lbsr w) s = .next t ∧
      t = { s with s := s.s - 2, pc := BitVec.ofInt 16 (s.pc.toNat + w.toInt), mem := t.mem } ∧
      Stored (s.s - 2) (wordBytes s.pc) s t)) ∧
  (∀ (s : State) (h l : Byte), readByte s s.s = .ok h → readByte s (s.s + 1) = .ok l →
    exec .rts s = .next { s with s := s.s + 2, pc := BitVec.ofNat 16 (256 * h.toNat + l.toNat) })

/-- Each short and long branch is taken exactly when its condition on N, Z, V, C holds, and changes PC alone. (R250,
R82, spec/44_branches.md) Derived: rests on the spec's own decisions D13, D20 (92_eei_decisions.md) and what R250, R82
mark as general knowledge. -/
def Obligations.BranchesTakenByTheirCondition : Prop :=
  (∀ (s : State) (o : Byte) (w : Word),
    let n := CC.get s.cc .n
    let z := CC.get s.cc .z
    let v := CC.get s.cc .v
    let c := CC.get s.cc .c
    (∀ p ∈
       [(Instr.bra o, true), (Instr.brn o, false), (Instr.bhi o, !(c || z)), (Instr.bls o, c || z),
        (Instr.bcc o, !c), (Instr.bhs o, !c), (Instr.bcs o, c), (Instr.blo o, c), (Instr.bne o, !z),
        (Instr.beq o, z), (Instr.bvc o, !v), (Instr.bvs o, v), (Instr.bpl o, !n), (Instr.bmi o, n),
        (Instr.bge o, !(n ^^ v)), (Instr.blt o, n ^^ v), (Instr.bgt o, !(z || (n ^^ v))),
        (Instr.ble o, z || (n ^^ v))],
      exec p.1 s = .next { s with pc := if p.2 then BitVec.ofInt 16 (s.pc.toNat + o.toInt) else s.pc }) ∧
    (∀ p ∈
       [(Instr.lbra w, true), (Instr.lbrn w, false), (Instr.lbhi w, !(c || z)), (Instr.lbls w, c || z),
        (Instr.lbcc w, !c), (Instr.lbhs w, !c), (Instr.lbcs w, c), (Instr.lblo w, c), (Instr.lbne w, !z),
        (Instr.lbeq w, z), (Instr.lbvc w, !v), (Instr.lbvs w, v), (Instr.lbpl w, !n), (Instr.lbmi w, n),
        (Instr.lbge w, !(n ^^ v)), (Instr.lblt w, n ^^ v), (Instr.lbgt w, !(z || (n ^^ v))),
        (Instr.lble w, z || (n ^^ v))],
      exec p.1 s = .next { s with pc := if p.2 then BitVec.ofInt 16 (s.pc.toNat + w.toInt) else s.pc })) ∧
  (∀ cc : Byte, ∀ p ∈ [(Cond.always, Cond.never), (.hi, .ls), (.cc, .cs), (.ne, .eq), (.vc, .vs), (.pl, .mi), (.ge, .lt),
      (.gt, .le)], p.1.holds cc = !p.2.holds cc) ∧
  (∀ (k : Cond) (old new : Byte), CC.get new .n = CC.get old .n → CC.get new .z = CC.get old .z →
    CC.get new .v = CC.get old .v → CC.get new .c = CC.get old .c → k.holds new = k.holds old)

/-- BCC, BCS, BEQ, BNE, BVC, BVS and their long forms: encoding, cycles, taken exactly if the flag says so. (R251,
R252, R253, R254, R255, R256, R275, R276, R285, R286, R287, R288) -/
def Obligations.BranchesOnOneFlag : Prop :=
  ∀ (o : Byte) (w : Word),
    (encode (.bcc o) = [0x24, o] ∧ encode (.bcs o) = [0x25, o] ∧ encode (.beq o) = [0x27, o] ∧
      encode (.bne o) = [0x26, o] ∧ encode (.bvc o) = [0x28, o] ∧ encode (.bvs o) = [0x29, o]) ∧
    (encode (.lbcc w) = [0x10, 0x24, hiByte w, loByte w] ∧
      encode (.lbcs w) = [0x10, 0x25, hiByte w, loByte w] ∧
      encode (.lbeq w) = [0x10, 0x27, hiByte w, loByte w] ∧
      encode (.lbne w) = [0x10, 0x26, hiByte w, loByte w] ∧
      encode (.lbvc w) = [0x10, 0x28, hiByte w, loByte w] ∧
      encode (.lbvs w) = [0x10, 0x29, hiByte w, loByte w]) ∧
    ∀ s : State,
      let z := CC.get s.cc .z
      let v := CC.get s.cc .v
      let c := CC.get s.cc .c
      (∀ p ∈ [(Instr.bcc o, !c), (Instr.bcs o, c), (Instr.beq o, z), (Instr.bne o, !z), (Instr.bvc o, !v), (Instr.bvs o, v)],
        cycles p.1 s = .exactly 3 ∧
        exec p.1 s = .next { s with pc := if p.2 then BitVec.ofInt 16 (s.pc.toNat + o.toInt) else s.pc }) ∧
      (∀ p ∈ [(Instr.lbcc w, !c), (Instr.lbcs w, c), (Instr.lbeq w, z), (Instr.lbne w, !z), (Instr.lbvc w, !v), (Instr.lbvs w, v)],
        cycles p.1 s = .exactly (if p.2 then 6 else 5) ∧
        exec p.1 s = .next { s with pc := if p.2 then BitVec.ofInt 16 (s.pc.toNat + w.toInt) else s.pc })

/-- After CMPA or CMPX the branches compare the register with the operand as their names say, unsigned and signed.
(R250, R120, R125, R9, R11, R82, spec/44_branches.md) Derived: rests on the spec's own decisions D13, D20
(92_eei_decisions.md) and what R250, R9, R82 mark as general knowledge. -/
def Obligations.ComparisonThenBranch : Prop :=
  (∀ (src : Src8) (s u : State) (m : Byte) (o : Byte), operand8 src s = .ok (m, u) →
    ∃ t, exec (.cmpa src) s = .next t ∧
      ∀ p ∈ [(Instr.bhi o, decide (m.toNat < u.a.toNat)), (.bhs o, decide (m.toNat ≤ u.a.toNat)),
             (.blo o, decide (u.a.toNat < m.toNat)), (.bls o, decide (u.a.toNat ≤ m.toNat)),
             (.bgt o, decide (m.toInt < u.a.toInt)), (.bge o, decide (m.toInt ≤ u.a.toInt)),
             (.blt o, decide (u.a.toInt < m.toInt)), (.ble o, decide (u.a.toInt ≤ m.toInt)),
             (.beq o, decide (u.a = m)), (.bne o, decide (u.a ≠ m))],
        exec p.1 t = .next { t with pc := if p.2 then BitVec.ofInt 16 (t.pc.toNat + o.toInt) else t.pc }) ∧
  (∀ (src : Src16) (s u : State) (m : Word) (o : Byte), operand16 src s = .ok (m, u) →
    ∃ t, exec (.cmpx src) s = .next t ∧
      ∀ p ∈ [(Instr.bhi o, decide (m.toNat < u.x.toNat)), (.bhs o, decide (m.toNat ≤ u.x.toNat)),
             (.blo o, decide (u.x.toNat < m.toNat)), (.bls o, decide (u.x.toNat ≤ m.toNat)),
             (.bgt o, decide (m.toInt < u.x.toInt)), (.bge o, decide (m.toInt ≤ u.x.toInt)),
             (.blt o, decide (u.x.toInt < m.toInt)), (.ble o, decide (u.x.toInt ≤ m.toInt)),
             (.beq o, decide (u.x = m)), (.bne o, decide (u.x ≠ m))],
        exec p.1 t = .next { t with pc := if p.2 then BitVec.ofInt 16 (t.pc.toNat + o.toInt) else t.pc })

/-- ABX, NOP, ANDCC, ORCC: encoding, cycles, effect and flags. (R100, R108, R181, R184) -/
def Obligations.AbxNopAndMaskInstructions : Prop :=
  ∀ (s : State) (m : Byte),
    (encode .abx = [0x3A] ∧ encode .nop = [0x12] ∧ encode (.andcc m) = [0x1C, m] ∧ encode (.orcc m) = [0x1A, m]) ∧
    (cycles .abx s = .exactly 3 ∧ cycles .nop s = .exactly 2 ∧ cycles (.andcc m) s = .exactly 3 ∧
      cycles (.orcc m) s = .exactly 3) ∧
    exec .abx s = .next { s with x := BitVec.ofNat 16 (s.x.toNat + s.b.toNat) } ∧
    exec .nop s = .next s ∧
    (∃ cc, exec (.andcc m) s = .next { s with cc := cc } ∧ ∀ k : Flag, CC.get cc k = (CC.get s.cc k && CC.get m k)) ∧
    (∃ cc, exec (.orcc m) s = .next { s with cc := cc } ∧ ∀ k : Flag, CC.get cc k = (CC.get s.cc k || CC.get m k))

/-- SWI, SWI2, SWI3 stack the entire state with E set, then SWI sets I and F, then PC comes from the vector. (R301)
Derived: rests on the spec's own decisions D17 (92_eei_decisions.md) and what R301 marks as general knowledge. -/
def Obligations.SoftwareInterrupts : Prop :=
  (encode .swi = [0x3F] ∧ encode .swi2 = [0x10, 0x3F] ∧ encode .swi3 = [0x11, 0x3F]) ∧
  ∀ s : State, s.NoHoles →
    (∃ t, exec .swi s = .next t ∧ Entered (entireFrame (s.cc ||| 0x80) s) (s.cc ||| 0xD0) 0xFFFA s t) ∧
    (∃ t, exec .swi2 s = .next t ∧ Entered (entireFrame (s.cc ||| 0x80) s) (s.cc ||| 0x80) 0xFFF4 s t) ∧
    (∃ t, exec .swi3 s = .next t ∧ Entered (entireFrame (s.cc ||| 0x80) s) (s.cc ||| 0x80) 0xFFF2 s t)

/-- RTI pulls CC and, by the E bit it pulled, the entire state or PC alone. (R208, R311, R306) Derived: rests on the
spec's own decisions D16, D17 (92_eei_decisions.md) and what R208, R311, R306 mark as general knowledge. -/
def Obligations.ReturnFromInterrupt : Prop :=
  ∀ (s : State) (cc : Byte), s.NoHoles → readByte s s.s = .ok cc →
    (CC.get cc .e = true → ∃ t, exec .rti s = .next t ∧
      t = { s with cc := cc, a := t.a, b := t.b, dp := t.dp, x := t.x, y := t.y, u := t.u, pc := t.pc, s := s.s + 12 } ∧
      ∀ k : Nat, ∀ b ∈ (entireFrame cc t)[k]?, readByte s (s.s + BitVec.ofNat 16 k) = .ok b) ∧
    (CC.get cc .e = false → ∃ t, exec .rti s = .next t ∧ t = { s with cc := cc, pc := t.pc, s := s.s + 3 } ∧
      ∀ k : Nat, ∀ b ∈ (shortFrame cc t)[k]?, readByte s (s.s + BitVec.ofNat 16 k) = .ok b)

/-- RTI right after SWI, SWI2 or SWI3 gives every register back, with E set in CC. (R311, R306, R301, R208) Derived:
rests on the spec's own decisions D16, D17 (92_eei_decisions.md) and what R311, R306, R301, R208 mark as general
knowledge. -/
def Obligations.RtiUndoesSoftwareInterrupts : Prop :=
  ∀ s : State, s.NoHoles → (∀ k : Nat, k < 12 → s.region (s.s - BitVec.ofNat 16 (k + 1)) = .ram) →
    ∀ i ∈ [Instr.swi, Instr.swi2, Instr.swi3],
      ∃ t, exec i s = .next t ∧ exec .rti t = .next { s with cc := s.cc ||| 0x80, mem := t.mem }

/-- CWAI masks CC, sets E, stacks the entire state and waits; SYNC waits. (R130, R226, R306, R312, R313) Derived:
rests on the spec's own decisions D17, D21, D27 (92_eei_decisions.md) and what R130, R226, R306, R312, R313 mark as
general knowledge. -/
def Obligations.CwaiAndSync : Prop :=
  ∀ (s : State) (m : Byte),
    (s.NoHoles → ∃ t, exec (.cwai m) s = .next t ∧
      t = { s with cc := (s.cc &&& m) ||| 0x80, s := s.s - 12, runState := .cwaiWait, mem := t.mem } ∧
      Stored (s.s - 12) (entireFrame ((s.cc &&& m) ||| 0x80) s) s t) ∧
    exec .sync s = .next { s with runState := .syncWait }

/-- A pending or newly latched NMI is taken before anything else: entire state stacked, I and F set, PC from $FFFC.
(R309, R304, R306, R305, R314) Derived: rests on the spec's own decisions D16, D17, D18 (92_eei_decisions.md) and what
R309, R304, R306, R305, R314 mark as general knowledge. -/
def Obligations.NmiEntry : Prop :=
  ∀ s : State, s.NoHoles → s.runState ≠ .cwaiWait →
    (s.nmiPending = true ∨ (s.sample.nmiEdge = true ∧ s.nmiArmed = true)) →
    ∃ t, step s = .next t ∧ Entered (entireFrame (s.cc ||| 0x80) s) (s.cc ||| 0xD0) 0xFFFC
      { s with runState := .running, nmiPending := false, irqIn := s.irqIn.tail } t

/-- An unmasked FIRQ without an NMI is taken: PC and CC stacked with E clear, I and F set, PC from $FFF6. (R308, R304,
R306, R305, R314) Derived: rests on the spec's own decisions D16, D17 (92_eei_decisions.md) and what R308, R304, R306,
R305, R314 mark as general knowledge. -/
def Obligations.FirqEntry : Prop :=
  ∀ s : State, s.NoHoles → s.runState ≠ .cwaiWait →
    s.nmiPending = false → ¬(s.sample.nmiEdge = true ∧ s.nmiArmed = true) →
    s.sample.firqLevel = true → CC.get s.cc .f = false →
    ∃ t, step s = .next t ∧ Entered (shortFrame (s.cc &&& 0x7F) s) (s.cc &&& 0x7F ||| 0x50) 0xFFF6
      { s with runState := .running, irqIn := s.irqIn.tail } t

/-- An unmasked IRQ without NMI or unmasked FIRQ is taken: entire state stacked, I set, F unchanged, PC from $FFF8.
(R307, R304, R306, R305, R314) Derived: rests on the spec's own decisions D16, D17 (92_eei_decisions.md) and what
R307, R304, R306, R305, R314 mark as general knowledge. -/
def Obligations.IrqEntry : Prop :=
  ∀ s : State, s.NoHoles → s.runState ≠ .cwaiWait →
    s.nmiPending = false → ¬(s.sample.nmiEdge = true ∧ s.nmiArmed = true) →
    ¬(s.sample.firqLevel = true ∧ CC.get s.cc .f = false) →
    s.sample.irqLevel = true → CC.get s.cc .i = false →
    ∃ t, step s = .next t ∧ Entered (entireFrame (s.cc ||| 0x80) s) (s.cc ||| 0x90) 0xFFF8
      { s with runState := .running, irqIn := s.irqIn.tail } t

/-- CWAI waits for an accepted interrupt and stacks nothing again; SYNC waits for any request, masked or not. (R312,
R313, R304, R302, R309) Derived: rests on the spec's own decisions D16, D18, D27 (92_eei_decisions.md) and what R312,
R313, R304, R302, R309 mark as general knowledge. -/
def Obligations.WaitingAndWaking : Prop :=
  ∀ s : State,
    (s.runState = .cwaiWait → s.Quiet → step s = .next { s with irqIn := s.irqIn.tail }) ∧
    (s.runState = .cwaiWait → s.NoHoles → s.nmiPending = false → ¬(s.sample.nmiEdge = true ∧ s.nmiArmed = true) →
      (s.sample.firqLevel = true → CC.get s.cc .f = false →
        ∃ t, step s = .next t ∧ readWord s 0xFFF6 = .ok t.pc ∧
          t = { s with runState := .running, irqIn := s.irqIn.tail, cc := s.cc ||| 0x50, pc := t.pc }) ∧
      (¬(s.sample.firqLevel = true ∧ CC.get s.cc .f = false) → s.sample.irqLevel = true → CC.get s.cc .i = false →
        ∃ t, step s = .next t ∧ readWord s 0xFFF8 = .ok t.pc ∧
          t = { s with runState := .running, irqIn := s.irqIn.tail, cc := s.cc ||| 0x10, pc := t.pc })) ∧
    (s.runState = .cwaiWait → s.NoHoles → (s.nmiPending = true ∨ (s.sample.nmiEdge = true ∧ s.nmiArmed = true)) →
      ∃ t, step s = .next t ∧ readWord s 0xFFFC = .ok t.pc ∧
        t = { s with runState := .running, irqIn := s.irqIn.tail, nmiPending := false, cc := s.cc ||| 0x50, pc := t.pc }) ∧
    (s.runState = .syncWait → s.nmiPending = false → ¬(s.sample.nmiEdge = true ∧ s.nmiArmed = true) →
      s.sample.firqLevel = false → s.sample.irqLevel = false → step s = .next { s with irqIn := s.irqIn.tail }) ∧
    (s.runState = .syncWait → (s.nmiPending = true ∨ (s.sample.nmiEdge = true ∧ s.nmiArmed = true) ∨
      s.sample.firqLevel = true ∨ s.sample.irqLevel = true) → step s = step { s with runState := .running })

/-- Reset, between steps and inside one, writes DP, I, F, the NMI latch and arming, run_state and PC, and keeps what
was done. (R340, R46, R185, R215) Two moments to each memory access, and register writes between two accesses taken
together, are the model's choice, log 9. Derived: rests on the spec's own decisions D6, D12, D15 (92_eei_decisions.md)
and what R340, R46, R185 mark as general knowledge. -/
def Obligations.ResetSequence : Prop :=
  (∀ s : State, s.NoHoles → ∃ t, resetSequence s = .ok t ∧ readWord s 0xFFFE = .ok t.pc ∧
    t = { s with dp := 0, cc := s.cc ||| 0x50, nmiArmed := false, nmiPending := false, runState := .running, pc := t.pc }) ∧
  (∀ s t : State, step s = .next t →
    (∀ n, ∃ u, stateInside n s = .ok u ∧ resetDuring n s = finish (resetSequence u)) ∧
    ∃ k, ∀ n, k ≤ n → stateInside n s = .ok t) ∧
  (∀ (s : State) (bs : List Byte) (i : Instr) (len : Nat), s.runState = .running → s.Quiet →
    (∀ k : Nat, ∀ b ∈ bs[k]?, readByte s (s.pc + BitVec.ofNat 16 k) = .ok b) → decode bs = .ok (i, len) →
    ∀ n, stateInside n s =
      if n < 2 * len then .ok { s with pc := s.pc + BitVec.ofNat 16 ((n + 1) / 2), irqIn := s.irqIn.tail }
      else insideInstr (n - 2 * len) i { s with pc := s.pc + BitVec.ofNat 16 len, irqIn := s.irqIn.tail }) ∧
  (∀ (l : RegList) (s : State) (n : Nat), s.NoHoles → n < 2 * (frameBytes .s l s).length →
    ∃ u, insideInstr n (.pshs l) s = .ok u ∧ u = { s with s := s.s - BitVec.ofNat 16 (n / 2 + 1), mem := u.mem } ∧
      Stored (s.s - BitVec.ofNat 16 ((n + 1) / 2))
        ((frameBytes .s l s).drop ((frameBytes .s l s).length - (n + 1) / 2)) s u) ∧
  (∀ (s : State) (a : Word), s.Usable a → ∀ n ∈ [1, 2],
    ∃ u, insideInstr n (.std (.extended a)) s = .ok u ∧ u = { s with mem := u.mem } ∧ Stored a [s.a] s u)
end

