-- ==== Sys2Proof/Laws/Memory.lean ====
section
/-! SUPPORT. Memory: a read after a write, and the canonical form that every write keeps. -/

namespace Sys2Proof.Machine

theorem Memory.read_dropUpTo (m : Memory) (a b : Nat) (h : a < b) :
    Memory.read (Memory.dropUpTo m a) b = Memory.read m b := by
  induction m with
  | nil => rfl
  | cons c rest ih =>
    obtain ⟨k, v⟩ := c
    simp only [Memory.dropUpTo]
    split
    · rw [ih, Memory.read, if_neg (by omega), if_neg (by omega)]
    · rfl

theorem Memory.read_cons_same (a : Nat) (v : Byte) (rest : Memory)
    (h : Memory.read rest a = Memory.fill) : Memory.read (Memory.cons a v rest) a = v := by
  unfold Memory.cons
  split <;> simp_all [Memory.read]

theorem Memory.read_cons_above (a b : Nat) (v : Byte) (rest : Memory) (h : a < b) :
    Memory.read (Memory.cons a v rest) b = Memory.read rest b := by
  unfold Memory.cons
  split
  · rfl
  · rw [Memory.read, if_neg (by omega), if_neg (by omega)]

theorem Memory.read_dropUpTo_below (m : Memory) (a b : Nat) (h : b ≤ a) :
    Memory.read (Memory.dropUpTo m a) b = Memory.fill := by
  induction m with
  | nil => rfl
  | cons c rest ih =>
    obtain ⟨k, v⟩ := c
    simp only [Memory.dropUpTo]
    split
    · exact ih
    · rw [Memory.read, if_pos (by omega)]

theorem Memory.read_cons_below (a b : Nat) (v : Byte) (rest : Memory) (h : b < a)
    (hr : Memory.read rest b = Memory.fill) : Memory.read (Memory.cons a v rest) b = Memory.fill := by
  unfold Memory.cons
  split
  · exact hr
  · rw [Memory.read, if_pos h]

/-- A byte written reads back (R41, R52). -/
@[simp] theorem Memory.read_write_same (m : Memory) (a : Nat) (v : Byte) :
    Memory.read (Memory.write m a v) a = v := by
  induction m with
  | nil => exact Memory.read_cons_same a v [] rfl
  | cons c rest ih =>
    obtain ⟨k, w⟩ := c
    simp only [Memory.write]
    split
    · exact Memory.read_cons_same _ _ _ (by rw [Memory.read, if_pos (by assumption)])
    · split
      · exact Memory.read_cons_same _ _ _ (Memory.read_dropUpTo_below _ _ _ (Nat.le_refl a))
      · rw [Memory.read, if_neg (by assumption), if_neg (by assumption), ih]

/-- A write leaves every other byte (R41). -/
@[simp] theorem Memory.read_write_other (m : Memory) (a b : Nat) (v : Byte) (h : b ≠ a) :
    Memory.read (Memory.write m a v) b = Memory.read m b := by
  induction m with
  | nil =>
    rcases Nat.lt_or_gt_of_ne h with hlt | hgt
    · exact Memory.read_cons_below _ _ _ _ hlt rfl
    · exact Memory.read_cons_above _ _ _ _ hgt
  | cons c rest ih =>
    obtain ⟨k, w⟩ := c
    simp only [Memory.write]
    split
    · rcases Nat.lt_or_gt_of_ne h with hlt | hgt
      · rw [Memory.read_cons_below _ _ _ _ hlt (by rw [Memory.read, if_pos (by omega)]), Memory.read, if_pos (by omega)]
      · rw [Memory.read_cons_above _ _ _ _ hgt]
    · split
      · subst k
        rcases Nat.lt_or_gt_of_ne h with hlt | hgt
        · rw [Memory.read_cons_below _ _ _ _ hlt (Memory.read_dropUpTo_below _ _ _ (by omega)), Memory.read,
            if_pos (by omega)]
        · rw [Memory.read_cons_above _ _ _ _ hgt, Memory.read_dropUpTo _ _ _ hgt, Memory.read, if_neg (by omega),
            if_neg (by omega)]
      · simp only [Memory.read]
        split
        · rfl
        · split
          · rfl
          · exact ih

/-- A lower start keeps the canonical form. -/
theorem Memory.wfFrom_mono {lo lo' : Nat} {m : Memory} (h : lo' ≤ lo) (hm : Memory.wfFrom lo m = true) :
    Memory.wfFrom lo' m = true := by
  cases m with
  | nil => rfl
  | cons c rest =>
    obtain ⟨k, v⟩ := c
    simp only [Memory.wfFrom, Bool.and_eq_true, decide_eq_true_eq] at hm ⊢
    exact ⟨⟨⟨by omega, hm.1.1.2⟩, hm.1.2⟩, hm.2⟩

theorem Memory.wfFrom_cons {lo a : Nat} {v : Byte} {rest : Memory} (hlo : lo ≤ a) (ha : a < 65536)
    (hr : Memory.wfFrom (a + 1) rest = true) : Memory.wfFrom lo (Memory.cons a v rest) = true := by
  unfold Memory.cons
  split
  · exact Memory.wfFrom_mono (by omega) hr
  · simp_all [Memory.wfFrom]

theorem Memory.wfFrom_dropUpTo {lo a : Nat} {m : Memory} (h : Memory.wfFrom lo m = true) :
    Memory.wfFrom (a + 1) (Memory.dropUpTo m a) = true := by
  induction m generalizing lo with
  | nil => rfl
  | cons c rest ih =>
    obtain ⟨k, v⟩ := c
    simp only [Memory.wfFrom, Bool.and_eq_true, decide_eq_true_eq] at h
    simp only [Memory.dropUpTo]
    split
    · exact ih h.2
    · simp only [Memory.wfFrom, Bool.and_eq_true, decide_eq_true_eq]
      exact ⟨⟨⟨by omega, h.1.1.2⟩, h.1.2⟩, h.2⟩

theorem Memory.wfFrom_write {lo : Nat} {m : Memory} {a : Nat} {v : Byte} (hlo : lo ≤ a) (ha : a < 65536)
    (h : Memory.wfFrom lo m = true) : Memory.wfFrom lo (Memory.write m a v) = true := by
  induction m generalizing lo with
  | nil => exact Memory.wfFrom_cons hlo ha rfl
  | cons c rest ih =>
    obtain ⟨k, w⟩ := c
    have h' := h
    simp only [Memory.wfFrom, Bool.and_eq_true, decide_eq_true_eq] at h
    simp only [Memory.write]
    split
    · refine Memory.wfFrom_cons hlo ha ?_
      simp only [Memory.wfFrom, Bool.and_eq_true, decide_eq_true_eq]
      exact ⟨⟨⟨by omega, h.1.1.2⟩, h.1.2⟩, h.2⟩
    · split
      · exact Memory.wfFrom_cons hlo ha (Memory.wfFrom_dropUpTo h.2)
      · simp only [Memory.wfFrom, Bool.and_eq_true, decide_eq_true_eq]
        exact ⟨h.1, ih (by omega) h.2⟩

/-- A write keeps the canonical form (log 3). -/
theorem Memory.wf_write {m : Memory} {a : Nat} {v : Byte} (ha : a < 65536) (h : Memory.wf m = true) :
    Memory.wf (Memory.write m a v) = true :=
  Memory.wfFrom_write (Nat.zero_le a) ha h

/-- Memory with nothing listed is in canonical form. -/
theorem Memory.wf_nil : Memory.wf [] = true := rfl

/-- From `lo` on, a memory in canonical form reads as unlisted below its first cell. -/
theorem Memory.read_below {lo a : Nat} {m : Memory} (h : Memory.wfFrom lo m = true) (ha : a < lo) :
    Memory.read m a = Memory.fill := by
  cases m with
  | nil => rfl
  | cons c rest =>
    obtain ⟨k, v⟩ := c
    simp only [Memory.wfFrom, Bool.and_eq_true, decide_eq_true_eq] at h
    rw [Memory.read, if_pos (by omega)]

theorem Memory.eq_of_read {lo : Nat} {m n : Memory} (hm : Memory.wfFrom lo m = true) (hn : Memory.wfFrom lo n = true)
    (h : ∀ a, Memory.read m a = Memory.read n a) : m = n := by
  induction m generalizing lo n with
  | nil =>
    cases n with
    | nil => rfl
    | cons d _ =>
      obtain ⟨k, v⟩ := d
      have hk := h k
      simp_all [Memory.read, Memory.wfFrom]
  | cons c rest ih =>
    obtain ⟨k, v⟩ := c
    cases n with
    | nil =>
      have hk := h k
      simp_all [Memory.read, Memory.wfFrom]
    | cons d rest' =>
      obtain ⟨k', v'⟩ := d
      simp only [Memory.wfFrom, Bool.and_eq_true, decide_eq_true_eq, bne_iff_ne, ne_eq] at hm hn
      have hkk : k = k' := by
        have h1 := h k
        have h2 := h k'
        simp only [Memory.read] at h1 h2
        rcases Nat.lt_trichotomy k k' with hlt | heq | hgt
        · rw [if_neg (by omega), if_pos trivial, if_pos hlt] at h1
          exact absurd h1 hm.1.2
        · exact heq
        · rw [if_pos hgt, if_neg (by omega), if_pos trivial] at h2
          exact absurd h2.symm hn.1.2
      subst hkk
      have hv := h k
      simp only [Memory.read, Nat.lt_irrefl, if_false, if_true] at hv
      subst hv
      congr 1
      refine ih hm.2 hn.2 (fun a => ?_)
      by_cases ha : a ≤ k
      · rw [Memory.read_below hm.2 (by omega), Memory.read_below hn.2 (by omega)]
      · have := h a
        simpa only [Memory.read, if_neg (show ¬a < k by omega), if_neg (show ¬a = k by omega)] using this

/-- Memories in canonical form that read the same are equal data. -/
theorem Memory.ext {m n : Memory} (hm : Memory.wf m = true) (hn : Memory.wf n = true)
    (h : ∀ a, Memory.read m a = Memory.read n a) : m = n :=
  Memory.eq_of_read hm hn h

end Sys2Proof.Machine
end

