-- ==== Sys2Proof/Laws/State.lean ====
section
/-! SUPPORT. One lemma for each field of State and each named update, and the reads of the flags of a CC byte. -/

namespace Sys2Proof.Machine

/-! ### The condition code register -/

/-- A flag written reads back; every other flag is unchanged. -/
@[simp] theorem CC.get_put (cc : Byte) (k g : Flag) (b : Bool) :
    CC.get (CC.put cc k b) g = if g = k then b else CC.get cc g := by
  cases k <;> cases g <;> cases b <;> simp [CC.get, CC.put, Flag.mask, Flag.bit]

/-- Two CC bytes with the same eight flags are equal. -/
theorem CC.ext {p q : Byte} (h : ∀ k, CC.get p k = CC.get q k) : p = q := by
  have he := h .e; have hf := h .f; have hh := h .h; have hi := h .i
  have hn := h .n; have hz := h .z; have hv := h .v; have hc := h .c
  simp only [CC.get, Flag.bit] at he hf hh hi hn hz hv hc
  apply BitVec.eq_of_getLsbD_eq
  intro k hk
  match k, hk with
  | 0, _ => exact hc
  | 1, _ => exact hv
  | 2, _ => exact hz
  | 3, _ => exact hn
  | 4, _ => exact hi
  | 5, _ => exact hh
  | 6, _ => exact hf
  | 7, _ => exact he

/-- Writing N, Z, V, C reads back, and leaves E, F, H, I. -/
@[simp] theorem CC.get_putNZVC (cc : Byte) (n z v c : Bool) (g : Flag) :
    CC.get (CC.putNZVC cc n z v c) g =
      match g with | .n => n | .z => z | .v => v | .c => c | _ => CC.get cc g := by
  cases g <;> simp [CC.putNZVC]

/-- Writing N, Z, V reads back, and leaves the rest. -/
@[simp] theorem CC.get_putNZV (cc : Byte) (n z v : Bool) (g : Flag) :
    CC.get (CC.putNZV cc n z v) g = match g with | .n => n | .z => z | .v => v | _ => CC.get cc g := by
  cases g <;> simp [CC.putNZV]

/-- Writing N, Z, C reads back, and leaves the rest. -/
@[simp] theorem CC.get_putNZC (cc : Byte) (n z c : Bool) (g : Flag) :
    CC.get (CC.putNZC cc n z c) g = match g with | .n => n | .z => z | .c => c | _ => CC.get cc g := by
  cases g <;> simp [CC.putNZC]

/-! ### setD -/

@[simp] theorem State.setD_a (s : State) (v : Word) : (s.setD v).a = hiByte v := rfl
@[simp] theorem State.setD_b (s : State) (v : Word) : (s.setD v).b = loByte v := rfl
@[simp] theorem State.setD_dp (s : State) (v : Word) : (s.setD v).dp = s.dp := rfl
@[simp] theorem State.setD_cc (s : State) (v : Word) : (s.setD v).cc = s.cc := rfl
@[simp] theorem State.setD_x (s : State) (v : Word) : (s.setD v).x = s.x := rfl
@[simp] theorem State.setD_y (s : State) (v : Word) : (s.setD v).y = s.y := rfl
@[simp] theorem State.setD_u (s : State) (v : Word) : (s.setD v).u = s.u := rfl
@[simp] theorem State.setD_s (s : State) (v : Word) : (s.setD v).s = s.s := rfl
@[simp] theorem State.setD_pc (s : State) (v : Word) : (s.setD v).pc = s.pc := rfl
@[simp] theorem State.setD_runState (s : State) (v : Word) : (s.setD v).runState = s.runState := rfl
@[simp] theorem State.setD_nmiArmed (s : State) (v : Word) : (s.setD v).nmiArmed = s.nmiArmed := rfl
@[simp] theorem State.setD_nmiPending (s : State) (v : Word) : (s.setD v).nmiPending = s.nmiPending := rfl
@[simp] theorem State.setD_mem (s : State) (v : Word) : (s.setD v).mem = s.mem := rfl
@[simp] theorem State.setD_platform (s : State) (v : Word) : (s.setD v).platform = s.platform := rfl
@[simp] theorem State.setD_irqIn (s : State) (v : Word) : (s.setD v).irqIn = s.irqIn := rfl
@[simp] theorem State.setD_draws (s : State) (v : Word) : (s.setD v).draws = s.draws := rfl

/-! ### latch -/

@[simp] theorem State.latch_a (s : State) : (s.latch).a = s.a := rfl
@[simp] theorem State.latch_b (s : State) : (s.latch).b = s.b := rfl
@[simp] theorem State.latch_dp (s : State) : (s.latch).dp = s.dp := rfl
@[simp] theorem State.latch_cc (s : State) : (s.latch).cc = s.cc := rfl
@[simp] theorem State.latch_x (s : State) : (s.latch).x = s.x := rfl
@[simp] theorem State.latch_y (s : State) : (s.latch).y = s.y := rfl
@[simp] theorem State.latch_u (s : State) : (s.latch).u = s.u := rfl
@[simp] theorem State.latch_s (s : State) : (s.latch).s = s.s := rfl
@[simp] theorem State.latch_pc (s : State) : (s.latch).pc = s.pc := rfl
@[simp] theorem State.latch_runState (s : State) : (s.latch).runState = s.runState := rfl
@[simp] theorem State.latch_nmiArmed (s : State) : (s.latch).nmiArmed = s.nmiArmed := rfl
@[simp] theorem State.latch_nmiPending (s : State) : (s.latch).nmiPending = (s.nmiPending || (s.sample.nmiEdge && s.nmiArmed)) := rfl
@[simp] theorem State.latch_mem (s : State) : (s.latch).mem = s.mem := rfl
@[simp] theorem State.latch_platform (s : State) : (s.latch).platform = s.platform := rfl
@[simp] theorem State.latch_irqIn (s : State) : (s.latch).irqIn = s.irqIn.tail := rfl
@[simp] theorem State.latch_draws (s : State) : (s.latch).draws = s.draws := rfl

/-! ### draw -/

@[simp] theorem State.draw_fst (s : State) : s.draw.1 = Config.freeHalfCarry s.draws := rfl
@[simp] theorem State.draw_a (s : State) : s.draw.2.a = s.a := rfl
@[simp] theorem State.draw_b (s : State) : s.draw.2.b = s.b := rfl
@[simp] theorem State.draw_dp (s : State) : s.draw.2.dp = s.dp := rfl
@[simp] theorem State.draw_cc (s : State) : s.draw.2.cc = s.cc := rfl
@[simp] theorem State.draw_x (s : State) : s.draw.2.x = s.x := rfl
@[simp] theorem State.draw_y (s : State) : s.draw.2.y = s.y := rfl
@[simp] theorem State.draw_u (s : State) : s.draw.2.u = s.u := rfl
@[simp] theorem State.draw_s (s : State) : s.draw.2.s = s.s := rfl
@[simp] theorem State.draw_pc (s : State) : s.draw.2.pc = s.pc := rfl
@[simp] theorem State.draw_runState (s : State) : s.draw.2.runState = s.runState := rfl
@[simp] theorem State.draw_nmiArmed (s : State) : s.draw.2.nmiArmed = s.nmiArmed := rfl
@[simp] theorem State.draw_nmiPending (s : State) : s.draw.2.nmiPending = s.nmiPending := rfl
@[simp] theorem State.draw_mem (s : State) : s.draw.2.mem = s.mem := rfl
@[simp] theorem State.draw_platform (s : State) : s.draw.2.platform = s.platform := rfl
@[simp] theorem State.draw_irqIn (s : State) : s.draw.2.irqIn = s.irqIn := rfl
@[simp] theorem State.draw_draws (s : State) : s.draw.2.draws = s.draws + 1 := rfl

/-! ### setAcc -/

@[simp] theorem State.setAcc_dp (s : State) (r : Acc) (v : Byte) : (s.setAcc r v).dp = s.dp := by cases r <;> rfl
@[simp] theorem State.setAcc_cc (s : State) (r : Acc) (v : Byte) : (s.setAcc r v).cc = s.cc := by cases r <;> rfl
@[simp] theorem State.setAcc_x (s : State) (r : Acc) (v : Byte) : (s.setAcc r v).x = s.x := by cases r <;> rfl
@[simp] theorem State.setAcc_y (s : State) (r : Acc) (v : Byte) : (s.setAcc r v).y = s.y := by cases r <;> rfl
@[simp] theorem State.setAcc_u (s : State) (r : Acc) (v : Byte) : (s.setAcc r v).u = s.u := by cases r <;> rfl
@[simp] theorem State.setAcc_s (s : State) (r : Acc) (v : Byte) : (s.setAcc r v).s = s.s := by cases r <;> rfl
@[simp] theorem State.setAcc_pc (s : State) (r : Acc) (v : Byte) : (s.setAcc r v).pc = s.pc := by cases r <;> rfl
@[simp] theorem State.setAcc_runState (s : State) (r : Acc) (v : Byte) : (s.setAcc r v).runState = s.runState := by cases r <;> rfl
@[simp] theorem State.setAcc_nmiArmed (s : State) (r : Acc) (v : Byte) : (s.setAcc r v).nmiArmed = s.nmiArmed := by cases r <;> rfl
@[simp] theorem State.setAcc_nmiPending (s : State) (r : Acc) (v : Byte) : (s.setAcc r v).nmiPending = s.nmiPending := by cases r <;> rfl
@[simp] theorem State.setAcc_mem (s : State) (r : Acc) (v : Byte) : (s.setAcc r v).mem = s.mem := by cases r <;> rfl
@[simp] theorem State.setAcc_platform (s : State) (r : Acc) (v : Byte) : (s.setAcc r v).platform = s.platform := by cases r <;> rfl
@[simp] theorem State.setAcc_irqIn (s : State) (r : Acc) (v : Byte) : (s.setAcc r v).irqIn = s.irqIn := by cases r <;> rfl
@[simp] theorem State.setAcc_draws (s : State) (r : Acc) (v : Byte) : (s.setAcc r v).draws = s.draws := by cases r <;> rfl

/-! ### setReg8 -/

@[simp] theorem State.setReg8_x (s : State) (r : Reg8) (v : Byte) : (s.setReg8 r v).x = s.x := by cases r <;> rfl
@[simp] theorem State.setReg8_y (s : State) (r : Reg8) (v : Byte) : (s.setReg8 r v).y = s.y := by cases r <;> rfl
@[simp] theorem State.setReg8_u (s : State) (r : Reg8) (v : Byte) : (s.setReg8 r v).u = s.u := by cases r <;> rfl
@[simp] theorem State.setReg8_s (s : State) (r : Reg8) (v : Byte) : (s.setReg8 r v).s = s.s := by cases r <;> rfl
@[simp] theorem State.setReg8_pc (s : State) (r : Reg8) (v : Byte) : (s.setReg8 r v).pc = s.pc := by cases r <;> rfl
@[simp] theorem State.setReg8_runState (s : State) (r : Reg8) (v : Byte) : (s.setReg8 r v).runState = s.runState := by cases r <;> rfl
@[simp] theorem State.setReg8_nmiArmed (s : State) (r : Reg8) (v : Byte) : (s.setReg8 r v).nmiArmed = s.nmiArmed := by cases r <;> rfl
@[simp] theorem State.setReg8_nmiPending (s : State) (r : Reg8) (v : Byte) : (s.setReg8 r v).nmiPending = s.nmiPending := by cases r <;> rfl
@[simp] theorem State.setReg8_mem (s : State) (r : Reg8) (v : Byte) : (s.setReg8 r v).mem = s.mem := by cases r <;> rfl
@[simp] theorem State.setReg8_platform (s : State) (r : Reg8) (v : Byte) : (s.setReg8 r v).platform = s.platform := by cases r <;> rfl
@[simp] theorem State.setReg8_irqIn (s : State) (r : Reg8) (v : Byte) : (s.setReg8 r v).irqIn = s.irqIn := by cases r <;> rfl
@[simp] theorem State.setReg8_draws (s : State) (r : Reg8) (v : Byte) : (s.setReg8 r v).draws = s.draws := by cases r <;> rfl

/-! ### load16 -/

@[simp] theorem State.load16_dp (s : State) (r : Reg16) (v : Word) : (s.load16 r v).dp = s.dp := by cases r <;> rfl
@[simp] theorem State.load16_cc (s : State) (r : Reg16) (v : Word) : (s.load16 r v).cc = s.cc := by cases r <;> rfl
@[simp] theorem State.load16_runState (s : State) (r : Reg16) (v : Word) : (s.load16 r v).runState = s.runState := by cases r <;> rfl
@[simp] theorem State.load16_nmiPending (s : State) (r : Reg16) (v : Word) : (s.load16 r v).nmiPending = s.nmiPending := by cases r <;> rfl
@[simp] theorem State.load16_mem (s : State) (r : Reg16) (v : Word) : (s.load16 r v).mem = s.mem := by cases r <;> rfl
@[simp] theorem State.load16_platform (s : State) (r : Reg16) (v : Word) : (s.load16 r v).platform = s.platform := by cases r <;> rfl
@[simp] theorem State.load16_irqIn (s : State) (r : Reg16) (v : Word) : (s.load16 r v).irqIn = s.irqIn := by cases r <;> rfl
@[simp] theorem State.load16_draws (s : State) (r : Reg16) (v : Word) : (s.load16 r v).draws = s.draws := by cases r <;> rfl

/-! ### setIndex -/

@[simp] theorem State.setIndex_a (s : State) (r : IndexReg) (v : Word) : (s.setIndex r v).a = s.a := by cases r <;> rfl
@[simp] theorem State.setIndex_b (s : State) (r : IndexReg) (v : Word) : (s.setIndex r v).b = s.b := by cases r <;> rfl
@[simp] theorem State.setIndex_dp (s : State) (r : IndexReg) (v : Word) : (s.setIndex r v).dp = s.dp := by cases r <;> rfl
@[simp] theorem State.setIndex_cc (s : State) (r : IndexReg) (v : Word) : (s.setIndex r v).cc = s.cc := by cases r <;> rfl
@[simp] theorem State.setIndex_pc (s : State) (r : IndexReg) (v : Word) : (s.setIndex r v).pc = s.pc := by cases r <;> rfl
@[simp] theorem State.setIndex_runState (s : State) (r : IndexReg) (v : Word) : (s.setIndex r v).runState = s.runState := by cases r <;> rfl
@[simp] theorem State.setIndex_nmiArmed (s : State) (r : IndexReg) (v : Word) : (s.setIndex r v).nmiArmed = s.nmiArmed := by cases r <;> rfl
@[simp] theorem State.setIndex_nmiPending (s : State) (r : IndexReg) (v : Word) : (s.setIndex r v).nmiPending = s.nmiPending := by cases r <;> rfl
@[simp] theorem State.setIndex_mem (s : State) (r : IndexReg) (v : Word) : (s.setIndex r v).mem = s.mem := by cases r <;> rfl
@[simp] theorem State.setIndex_platform (s : State) (r : IndexReg) (v : Word) : (s.setIndex r v).platform = s.platform := by cases r <;> rfl
@[simp] theorem State.setIndex_irqIn (s : State) (r : IndexReg) (v : Word) : (s.setIndex r v).irqIn = s.irqIn := by cases r <;> rfl
@[simp] theorem State.setIndex_draws (s : State) (r : IndexReg) (v : Word) : (s.setIndex r v).draws = s.draws := by cases r <;> rfl

/-! ### setSp -/

@[simp] theorem State.setSp_a (s : State) (r : StackReg) (v : Word) : (s.setSp r v).a = s.a := by cases r <;> rfl
@[simp] theorem State.setSp_b (s : State) (r : StackReg) (v : Word) : (s.setSp r v).b = s.b := by cases r <;> rfl
@[simp] theorem State.setSp_dp (s : State) (r : StackReg) (v : Word) : (s.setSp r v).dp = s.dp := by cases r <;> rfl
@[simp] theorem State.setSp_cc (s : State) (r : StackReg) (v : Word) : (s.setSp r v).cc = s.cc := by cases r <;> rfl
@[simp] theorem State.setSp_x (s : State) (r : StackReg) (v : Word) : (s.setSp r v).x = s.x := by cases r <;> rfl
@[simp] theorem State.setSp_y (s : State) (r : StackReg) (v : Word) : (s.setSp r v).y = s.y := by cases r <;> rfl
@[simp] theorem State.setSp_pc (s : State) (r : StackReg) (v : Word) : (s.setSp r v).pc = s.pc := by cases r <;> rfl
@[simp] theorem State.setSp_runState (s : State) (r : StackReg) (v : Word) : (s.setSp r v).runState = s.runState := by cases r <;> rfl
@[simp] theorem State.setSp_nmiArmed (s : State) (r : StackReg) (v : Word) : (s.setSp r v).nmiArmed = s.nmiArmed := by cases r <;> rfl
@[simp] theorem State.setSp_nmiPending (s : State) (r : StackReg) (v : Word) : (s.setSp r v).nmiPending = s.nmiPending := by cases r <;> rfl
@[simp] theorem State.setSp_mem (s : State) (r : StackReg) (v : Word) : (s.setSp r v).mem = s.mem := by cases r <;> rfl
@[simp] theorem State.setSp_platform (s : State) (r : StackReg) (v : Word) : (s.setSp r v).platform = s.platform := by cases r <;> rfl
@[simp] theorem State.setSp_irqIn (s : State) (r : StackReg) (v : Word) : (s.setSp r v).irqIn = s.irqIn := by cases r <;> rfl
@[simp] theorem State.setSp_draws (s : State) (r : StackReg) (v : Word) : (s.setSp r v).draws = s.draws := by cases r <;> rfl

/-! ### loadOtherSp -/

@[simp] theorem State.loadOtherSp_a (s : State) (r : StackReg) (v : Word) : (s.loadOtherSp r v).a = s.a := by cases r <;> rfl
@[simp] theorem State.loadOtherSp_b (s : State) (r : StackReg) (v : Word) : (s.loadOtherSp r v).b = s.b := by cases r <;> rfl
@[simp] theorem State.loadOtherSp_dp (s : State) (r : StackReg) (v : Word) : (s.loadOtherSp r v).dp = s.dp := by cases r <;> rfl
@[simp] theorem State.loadOtherSp_cc (s : State) (r : StackReg) (v : Word) : (s.loadOtherSp r v).cc = s.cc := by cases r <;> rfl
@[simp] theorem State.loadOtherSp_x (s : State) (r : StackReg) (v : Word) : (s.loadOtherSp r v).x = s.x := by cases r <;> rfl
@[simp] theorem State.loadOtherSp_y (s : State) (r : StackReg) (v : Word) : (s.loadOtherSp r v).y = s.y := by cases r <;> rfl
@[simp] theorem State.loadOtherSp_pc (s : State) (r : StackReg) (v : Word) : (s.loadOtherSp r v).pc = s.pc := by cases r <;> rfl
@[simp] theorem State.loadOtherSp_runState (s : State) (r : StackReg) (v : Word) : (s.loadOtherSp r v).runState = s.runState := by cases r <;> rfl
@[simp] theorem State.loadOtherSp_nmiPending (s : State) (r : StackReg) (v : Word) : (s.loadOtherSp r v).nmiPending = s.nmiPending := by cases r <;> rfl
@[simp] theorem State.loadOtherSp_mem (s : State) (r : StackReg) (v : Word) : (s.loadOtherSp r v).mem = s.mem := by cases r <;> rfl
@[simp] theorem State.loadOtherSp_platform (s : State) (r : StackReg) (v : Word) : (s.loadOtherSp r v).platform = s.platform := by cases r <;> rfl
@[simp] theorem State.loadOtherSp_irqIn (s : State) (r : StackReg) (v : Word) : (s.loadOtherSp r v).irqIn = s.irqIn := by cases r <;> rfl
@[simp] theorem State.loadOtherSp_draws (s : State) (r : StackReg) (v : Word) : (s.loadOtherSp r v).draws = s.draws := by cases r <;> rfl

/-! ### Reads after writes -/

@[simp] theorem State.acc_setAcc (s : State) (r q : Acc) (v : Byte) :
    (s.setAcc r v).acc q = if q = r then v else s.acc q := by
  cases r <;> cases q <;> rfl

@[simp] theorem State.reg8_setReg8 (s : State) (r q : Reg8) (v : Byte) :
    (s.setReg8 r v).reg8 q = if q = r then v else s.reg8 q := by
  cases r <;> cases q <;> rfl

@[simp] theorem State.index_setIndex (s : State) (r q : IndexReg) (v : Word) :
    (s.setIndex r v).index q = if q = r then v else s.index q := by
  cases r <;> cases q <;> rfl

@[simp] theorem State.sp_setSp (s : State) (r q : StackReg) (v : Word) :
    (s.setSp r v).sp q = if q = r then v else s.sp q := by
  cases r <;> cases q <;> rfl

@[simp] theorem State.sp_with_pc (s : State) (r : StackReg) (v : Word) : ({ s with pc := v }).sp r = s.sp r := by
  cases r <;> rfl

/-- The value of a concatenation (R42). -/
theorem join_toNat (h l : Byte) : (join h l).toNat = h.toNat * 256 + l.toNat := by
  have hl := l.isLt
  rw [join, BitVec.toNat_append, ← Nat.shiftLeft_add_eq_or_of_lt (by omega), Nat.shiftLeft_eq]

theorem hiByte_toNat (v : Word) : (hiByte v).toNat = v.toNat / 256 := by
  have hv := v.isLt
  rw [hiByte, BitVec.extractLsb'_toNat, Nat.shiftRight_eq_div_pow]
  omega

theorem loByte_toNat (v : Word) : (loByte v).toNat = v.toNat % 256 := by
  rw [loByte, BitVec.extractLsb'_toNat, Nat.shiftRight_eq_div_pow]
  omega

/-- The halves of a concatenation (R22, R42). -/
@[simp] theorem hiByte_join (h l : Byte) : hiByte (join h l) = h := by
  have hl := l.isLt
  apply BitVec.eq_of_toNat_eq
  rw [hiByte_toNat, join_toNat]
  omega

@[simp] theorem loByte_join (h l : Byte) : loByte (join h l) = l := by
  have hl := l.isLt
  apply BitVec.eq_of_toNat_eq
  rw [loByte_toNat, join_toNat]
  omega

@[simp] theorem join_hiByte_loByte (v : Word) : join (hiByte v) (loByte v) = v := by
  apply BitVec.eq_of_toNat_eq
  rw [join_toNat, hiByte_toNat, loByte_toNat]
  omega

@[simp] theorem State.d_setD (s : State) (v : Word) : (s.setD v).d = v := by
  simp [State.d]

@[simp] theorem State.reg16_load16 (s : State) (r q : Reg16) (v : Word) :
    (s.load16 r v).reg16 q = if q = r then v else s.reg16 q := by
  cases r <;> cases q <;> simp [State.load16, State.reg16, State.d]

end Sys2Proof.Machine
end

