-- ==== Sys2Proof/Laws/Ops.lean ====
section
/-! SUPPORT. What each shared operation of Machine/Ops.lean, Machine/Operands.lean and Machine/Effects.lean can do when it
answers, said once: cite these, do not unfold the operations. -/

namespace Sys2Proof.Machine

/-! ### Results -/

theorem Res.bind_ok {α β : Type} {r : Res α} {f : α → Res β} {b : β} :
    (r >>= f) = .ok b ↔ ∃ a, r = .ok a ∧ f a = .ok b := by
  cases r with
  | ok a => simp [bind, Except.bind]
  | error e => simp [bind, Except.bind]

theorem Res.pure_ok {α : Type} {a b : α} : (pure a : Res α) = .ok b ↔ a = b := by
  simp [pure, Except.pure]

@[simp] theorem finish_ok (s : State) : finish (.ok s) = .next s := rfl

/-- A step answers a next state exactly when its operation does. -/
@[simp] theorem finish_next {r : Res State} {t : State} : finish r = .next t ↔ r = .ok t := by
  match r with
  | .ok s => simp [finish]
  | .error (.fault e) => simp [finish]
  | .error (.refused e) => simp [finish]

/-! ### The plain bus -/

@[simp] theorem plain_read (s : State) (a : Word) : Bus.plain.read s a = readByte s a := rfl

@[simp] theorem plain_write (s : State) (a : Word) (v : Byte) : Bus.plain.write s a v = writeByte s a v := rfl

@[simp] theorem plain_readWord (s : State) (a : Word) : Bus.plain.readWord s a = readWord s a := rfl

@[simp] theorem plain_writeWord (s : State) (a v : Word) : Bus.plain.writeWord s a v = writeWord s a v := rfl

@[simp] theorem plain_push8 (r : StackReg) (v : Byte) (s : State) : Bus.plain.push8 r v s = push8 r v s := rfl

@[simp] theorem plain_push16 (r : StackReg) (v : Word) (s : State) : Bus.plain.push16 r v s = push16 r v s := rfl

@[simp] theorem plain_pull8 (r : StackReg) (s : State) : Bus.plain.pull8 r s = pull8 r s := rfl

@[simp] theorem plain_pull16 (r : StackReg) (s : State) : Bus.plain.pull16 r s = pull16 r s := rfl

@[simp] theorem plain_indexedEA (m : Indexed) (s : State) : Bus.plain.indexedEA m s = indexedEA m s := rfl

@[simp] theorem plain_effectiveAddress (m : MemOperand) (s : State) :
    Bus.plain.effectiveAddress m s = effectiveAddress m s := rfl

@[simp] theorem plain_operand8 (src : Src8) (s : State) : Bus.plain.operand8 src s = operand8 src s := rfl

@[simp] theorem plain_operand16 (src : Src16) (s : State) : Bus.plain.operand16 src s = operand16 src s := rfl

theorem finish_ofOutcome (o : Host.Outcome State Fault Refusal) : finish (Res.ofOutcome o) = o := by
  cases o <;> rfl

/-! ### Which bytes change -/

/-- From `s` to `t` no byte outside `P` changes, no byte outside ram changes, the platform stays, and memory keeps its
canonical form. -/
structure WritesOnly (P : Word → Prop) (s t : State) : Prop where
  platform : t.platform = s.platform
  outside : ∀ b : Word, ¬P b → Memory.read t.mem b.toNat = Memory.read s.mem b.toNat
  notRam : ∀ b : Word, s.region b ≠ .ram → Memory.read t.mem b.toNat = Memory.read s.mem b.toNat
  wf : Memory.wf s.mem = true → Memory.wf t.mem = true

theorem WritesOnly.of_mem_eq {P : Word → Prop} {s t : State} (hm : t.mem = s.mem) (hp : t.platform = s.platform) :
    WritesOnly P s t where
  platform := hp
  outside := fun b _ => by rw [hm]
  notRam := fun b _ => by rw [hm]
  wf := fun h => by rw [hm]; exact h

theorem WritesOnly.region {P : Word → Prop} {s t : State} (h : WritesOnly P s t) (b : Word) :
    t.region b = s.region b := by
  rw [State.region, State.region, h.platform]

theorem WritesOnly.mono {P Q : Word → Prop} {s t : State} (h : WritesOnly P s t) (hPQ : ∀ b, P b → Q b) :
    WritesOnly Q s t where
  platform := h.platform
  outside := fun b hb => h.outside b (fun hp => hb (hPQ b hp))
  notRam := h.notRam
  wf := h.wf

theorem WritesOnly.trans {P : Word → Prop} {s t u : State} (h : WritesOnly P s t) (h' : WritesOnly P t u) :
    WritesOnly P s u where
  platform := h'.platform.trans h.platform
  outside := fun b hb => (h'.outside b hb).trans (h.outside b hb)
  notRam := fun b hb => (h'.notRam b (by rw [h.region]; exact hb)).trans (h.notRam b hb)
  wf := fun hw => h'.wf (h.wf hw)

/-! ### Memory -/

theorem readByte_ok {s : State} {a : Word} {v : Byte} :
    readByte s a = .ok v ↔ (s.region a = .ram ∨ s.region a = .rom) ∧ Memory.read s.mem a.toNat = v := by
  unfold readByte
  split <;> simp_all

/-- What one byte reads as depends on memory and platform alone. -/
theorem readByte_congr {s t : State} {a : Word} (hp : t.platform = s.platform)
    (hm : Memory.read t.mem a.toNat = Memory.read s.mem a.toNat) : readByte t a = readByte s a := by
  simp only [readByte, State.region, hp, hm]

theorem WritesOnly.readByte {P : Word → Prop} {s t : State} (h : WritesOnly P s t) {b : Word} (hb : ¬P b) :
    readByte t b = readByte s b :=
  readByte_congr h.platform (h.outside b hb)

theorem writeByte_ok {s t : State} {a : Word} {v : Byte} :
    writeByte s a v = .ok t ↔
      (s.region a = .ram ∧ t = { s with mem := Memory.write s.mem a.toNat v }) ∨ (s.region a = .rom ∧ t = s) := by
  unfold writeByte
  cases hr : s.region a <;> simp [eq_comm (a := t)]

/-- A write of one byte changes memory alone, and of it that byte alone. -/
theorem writeByte_frame {s t : State} {a : Word} {v : Byte} (h : writeByte s a v = .ok t) :
    t = { s with mem := t.mem } ∧ WritesOnly (· = a) s t := by
  rcases writeByte_ok.1 h with ⟨hr, rfl⟩ | ⟨_, rfl⟩
  · refine ⟨rfl, rfl, ?_, ?_, ?_⟩
    · intro b hb
      exact Memory.read_write_other _ _ _ _ (fun hn => hb (BitVec.eq_of_toNat_eq hn))
    · intro b hb
      refine Memory.read_write_other _ _ _ _ (fun hn => hb ?_)
      rw [BitVec.eq_of_toNat_eq hn]; exact hr
    · exact Memory.wf_write a.isLt
  · exact ⟨rfl, .of_mem_eq rfl rfl⟩

/-- A byte written to ram reads back. -/
theorem writeByte_read {s t : State} {a : Word} {v : Byte} (h : writeByte s a v = .ok t) (hr : s.region a = .ram) :
    readByte t a = .ok v := by
  rcases writeByte_ok.1 h with ⟨_, rfl⟩ | ⟨hr', _⟩
  · exact readByte_ok.2 ⟨.inl hr, Memory.read_write_same _ _ _⟩
  · rw [hr] at hr'; cases hr'

theorem readWord_ok {s : State} {a v : Word} :
    readWord s a = .ok v ↔ readByte s a = .ok (hiByte v) ∧ readByte s (a + 1) = .ok (loByte v) := by
  simp only [readWord, Bus.readWord, plain_read, Res.bind_ok, Res.pure_ok]
  constructor
  · rintro ⟨h, hh, l, hl, rfl⟩
    simpa using ⟨hh, hl⟩
  · rintro ⟨hh, hl⟩
    exact ⟨_, hh, _, hl, by simp⟩

theorem writeWord_ok {s t : State} {a v : Word} :
    writeWord s a v = .ok t ↔ ∃ u, writeByte s a (hiByte v) = .ok u ∧ writeByte u (a + 1) (loByte v) = .ok t := by
  simp only [writeWord, Bus.writeWord, plain_write, Res.bind_ok]

/-- A write of a word changes memory alone, and of it the two bytes from `a` on alone. -/
theorem writeWord_frame {s t : State} {a v : Word} (h : writeWord s a v = .ok t) :
    t = { s with mem := t.mem } ∧ WritesOnly (fun b => b = a ∨ b = a + 1) s t := by
  obtain ⟨u, h1, h2⟩ := writeWord_ok.1 h
  obtain ⟨e1, w1⟩ := writeByte_frame h1
  obtain ⟨e2, w2⟩ := writeByte_frame h2
  refine ⟨?_, (w1.mono fun _ => .inl).trans (w2.mono fun _ => .inr)⟩
  rw [e2, e1]

/-! ### Operands -/

/-- Forming an indexed address changes at most one index register. -/
theorem indexedBase_frame (m : Indexed) (s : State) :
    (indexedBase m s).2 = { s with x := (indexedBase m s).2.x, y := (indexedBase m s).2.y,
                                   u := (indexedBase m s).2.u, s := (indexedBase m s).2.s } := by
  cases m <;> first | rfl | (rename_i r; cases r <;> rfl) | (rename_i r _; cases r <;> rfl)

theorem indexedEA_ok {m : Indexed} {s u : State} {a : Word} :
    indexedEA m s = .ok (a, u) ↔
      u = (indexedBase m s).2 ∧
        if indirect m then readWord u (indexedBase m s).1 = .ok a else a = (indexedBase m s).1 := by
  simp only [indexedEA, Bus.indexedEA, plain_readWord]
  generalize indexedBase m s = p
  obtain ⟨b, w⟩ := p
  cases hi : indirect m
  · simp [pure, Except.pure, eq_comm, and_comm]
  · simp only [if_true, Res.bind_ok, Res.pure_ok, Prod.mk.injEq]
    constructor
    · rintro ⟨p, hp, rfl, rfl⟩; exact ⟨rfl, hp⟩
    · rintro ⟨rfl, hp⟩; exact ⟨a, hp, rfl, rfl⟩

theorem indexedEA_frame {m : Indexed} {s u : State} {a : Word} (h : indexedEA m s = .ok (a, u)) :
    u = { s with x := u.x, y := u.y, u := u.u, s := u.s } := by
  rw [(indexedEA_ok.1 h).1]
  exact indexedBase_frame m s

/-- Forming an address changes at most an index register (R65, R75, R76). -/
theorem effectiveAddress_frame {m : MemOperand} {s u : State} {a : Word} (h : effectiveAddress m s = .ok (a, u)) :
    u = { s with x := u.x, y := u.y, u := u.u, s := u.s } := by
  cases m with
  | direct d => obtain ⟨_, rfl⟩ := Prod.mk.inj (Except.ok.inj h); rfl
  | indexed i => exact indexedEA_frame h
  | extended d => obtain ⟨_, rfl⟩ := Prod.mk.inj (Except.ok.inj h); rfl

theorem operand8_frame {src : Src8} {s u : State} {v : Byte} (h : operand8 src s = .ok (v, u)) :
    u = { s with x := u.x, y := u.y, u := u.u, s := u.s } := by
  cases src with
  | imm _ => obtain ⟨_, rfl⟩ := Prod.mk.inj (Except.ok.inj h); rfl
  | mem m =>
    simp only [operand8, Bus.operand8, plain_effectiveAddress, plain_read, Res.bind_ok, Res.pure_ok, Prod.exists] at h
    obtain ⟨a, w, hw, _, _, he⟩ := h
    obtain ⟨_, rfl⟩ := Prod.mk.inj he
    exact effectiveAddress_frame hw

theorem operand16_frame {src : Src16} {s u : State} {v : Word} (h : operand16 src s = .ok (v, u)) :
    u = { s with x := u.x, y := u.y, u := u.u, s := u.s } := by
  cases src with
  | imm _ => obtain ⟨_, rfl⟩ := Prod.mk.inj (Except.ok.inj h); rfl
  | mem m =>
    simp only [operand16, Bus.operand16, plain_effectiveAddress, plain_readWord, Res.bind_ok, Res.pure_ok, Prod.exists] at h
    obtain ⟨a, w, hw, _, _, he⟩ := h
    obtain ⟨_, rfl⟩ := Prod.mk.inj he
    exact effectiveAddress_frame hw

end Sys2Proof.Machine
end

