-- ==== Sys2Proof/Laws/Stack.lean ====
section
/-! SUPPORT. Bytes stored in a row and stack frames: what pushes leave, what pulls read. -/

namespace Sys2Proof.Machine

/-! ### Bytes stored in a row -/

theorem WritesOnly.readByte_notRam {P : Word → Prop} {s t : State} (h : WritesOnly P s t) {b : Word}
    (hb : s.region b ≠ .ram) : Machine.readByte t b = Machine.readByte s b :=
  readByte_congr h.platform (h.notRam b hb)

/-- A write to a usable address succeeds (R41, R49). -/
theorem writeByte_usable {s : State} {a : Word} {v : Byte} (h : s.Usable a) : ∃ t, writeByte s a v = .ok t := by
  rcases h with h | h
  · exact ⟨_, writeByte_ok.2 (.inl ⟨h, rfl⟩)⟩
  · exact ⟨_, writeByte_ok.2 (.inr ⟨h, rfl⟩)⟩

/-- A read of a usable address succeeds. -/
theorem readByte_usable {s : State} {a : Word} (h : s.Usable a) : ∃ v, readByte s a = .ok v :=
  ⟨_, readByte_ok.2 ⟨h, rfl⟩⟩

theorem State.Usable.congr {s t : State} {a : Word} (h : s.Usable a) (hp : t.platform = s.platform) : t.Usable a := by
  unfold State.Usable State.region at *
  rwa [hp]

theorem State.NoHoles.congr {s t : State} (h : s.NoHoles) (hp : t.platform = s.platform) : t.NoHoles :=
  fun a => (h a).congr hp

/-- No byte stored, nothing changed. -/
theorem Stored.nil {a : Word} {s t : State} (h : ∀ b, readByte t b = readByte s b) : Stored a [] s t :=
  ⟨fun k b hb => by simp at hb, fun b _ => h b⟩

/-- One more byte, below those stored. -/
theorem Stored.cons {a : Word} {bs : List Byte} {s t u : State} {v : Byte} (h : Stored a bs s t)
    (hp : t.platform = s.platform) (hl : bs.length < 65536) (hw : writeByte t (a - 1) v = .ok u) :
    Stored (a - 1) (v :: bs) s u := by
  obtain ⟨_, hwo⟩ := writeByte_frame hw
  have hreg : ∀ b, t.region b = s.region b := fun b => by rw [State.region, State.region, hp]
  constructor
  · intro k b hb hr
    cases k with
    | zero =>
      simp only [List.getElem?_cons_zero, Option.mem_def, Option.some.injEq] at hb
      subst hb
      simp only [BitVec.ofNat_eq_ofNat, BitVec.add_zero] at hr ⊢
      exact writeByte_read hw (by rw [hreg]; exact hr)
    | succ j =>
      simp only [List.getElem?_cons_succ] at hb
      have hj : j < bs.length := (List.getElem?_eq_some_iff.1 hb).1
      have e : a - 1 + BitVec.ofNat 16 (j + 1) = a + BitVec.ofNat 16 j := by
        apply BitVec.eq_of_toNat_eq; simp; omega
      rw [e] at hr ⊢
      rw [hwo.readByte, h.1 j b hb hr]
      intro hc
      have := congrArg BitVec.toNat hc
      simp at this
      omega
  · intro b hb
    have hout : readByte t b = readByte s b := by
      apply h.2
      rcases hb with hb | hb
      · left
        intro k hk hc
        apply hb (k + 1) (by simpa using hk)
        rw [hc]
        apply BitVec.eq_of_toNat_eq; simp; omega
      · exact .inr hb
    rcases hb with hb | hb
    · rw [hwo.readByte, hout]
      have := hb 0 (by simp)
      simpa using this
    · rw [hwo.readByte_notRam (by rw [hreg]; exact hb), hout]

/-- A write of a byte stores that byte (R41, R49). -/
theorem writeByte_stored {s t : State} {a : Word} {v : Byte} (h : writeByte s a v = .ok t) : Stored a [v] s t := by
  have h0 : Stored (a + 1) [] s s := .nil fun _ => rfl
  have e : a + 1 - 1 = a := by apply BitVec.eq_of_toNat_eq; simp
  have := h0.cons rfl (by simp) (by rw [e]; exact h)
  rwa [e] at this

/-- A write of a word stores its two bytes, high first (R42). -/
theorem writeWord_stored {s t : State} {a v : Word} (h : writeWord s a v = .ok t) : Stored a (wordBytes v) s t := by
  obtain ⟨u, h1, h2⟩ := writeWord_ok.1 h
  obtain ⟨e1, w1⟩ := writeByte_frame h1
  obtain ⟨e2, w2⟩ := writeByte_frame h2
  have hne : a + 1 ≠ a := by
    intro hc; have := congrArg BitVec.toNat hc; simp at this; omega
  constructor
  · intro k b hb hr
    match k with
    | 0 =>
      simp only [wordBytes, List.getElem?_cons_zero, Option.mem_def, Option.some.injEq] at hb
      subst hb
      simp only [BitVec.add_zero] at hr ⊢
      rw [w2.readByte (fun hc => hne hc.symm)]
      exact writeByte_read h1 hr
    | 1 =>
      simp only [wordBytes, List.getElem?_cons_succ, List.getElem?_cons_zero, Option.mem_def, Option.some.injEq] at hb
      subst hb
      exact writeByte_read h2 (by rw [w1.region]; exact hr)
    | k + 2 => simp [wordBytes] at hb
  · intro b hb
    rcases hb with hb | hb
    · have h0 : b ≠ a := by simpa using hb 0 (by simp [wordBytes])
      have h1 : b ≠ a + 1 := by simpa using hb 1 (by simp [wordBytes])
      rw [w2.readByte h1, w1.readByte h0]
    · rw [w2.readByte_notRam (by rw [w1.region]; exact hb), w1.readByte_notRam hb]

/-- A write of a word to usable addresses succeeds. -/
theorem writeWord_usable {s : State} {a v : Word} (h : s.Usable a) (h' : s.Usable (a + 1)) :
    ∃ t, writeWord s a v = .ok t := by
  obtain ⟨u, hu⟩ := writeByte_usable (v := hiByte v) h
  obtain ⟨t, ht⟩ := writeByte_usable (v := loByte v) (h'.congr (writeByte_frame hu).2.platform)
  exact ⟨t, writeWord_ok.2 ⟨u, hu, ht⟩⟩

/-! ### Pushes -/

/-- From `s` to `t` the bytes `bs` have been pushed, the last of the list first, and nothing else has changed (R48). -/
structure Pushed (r : StackReg) (bs : List Byte) (s t : State) : Prop where
  state : t = { s.setSp r (s.sp r - BitVec.ofNat 16 bs.length) with mem := t.mem }
  stored : Stored (s.sp r - BitVec.ofNat 16 bs.length) bs s t
  wf : Memory.wf s.mem = true → Memory.wf t.mem = true

theorem Pushed.nil (r : StackReg) (s : State) : Pushed r [] s s where
  state := by cases r <;> simp [State.setSp, State.sp]
  stored := .nil fun _ => rfl
  wf := id

theorem Pushed.platform {r : StackReg} {bs : List Byte} {s t : State} (h : Pushed r bs s t) :
    t.platform = s.platform := by
  rw [h.state]; simp

theorem Pushed.sp {r : StackReg} {bs : List Byte} {s t : State} (h : Pushed r bs s t) :
    t.sp r = s.sp r - BitVec.ofNat 16 bs.length := by
  rw [h.state]; cases r <;> rfl

theorem sub_ofNat_succ (a : Word) (n : Nat) : a - BitVec.ofNat 16 (n + 1) = a - BitVec.ofNat 16 n - 1 := by
  apply BitVec.eq_of_toNat_eq; simp; omega

theorem Pushed.push8 {r : StackReg} {bs : List Byte} {s t u : State} {v : Byte} (h : Pushed r bs s t)
    (hl : bs.length < 65536) (hu : push8 r v t = .ok u) : Pushed r (v :: bs) s u := by
  simp only [Machine.push8, Bus.push8, plain_write] at hu
  rw [h.sp] at hu
  obtain ⟨e, w⟩ := writeByte_frame hu
  have ha : s.sp r - BitVec.ofNat 16 (v :: bs).length = s.sp r - BitVec.ofNat 16 bs.length - 1 := by
    rw [List.length_cons, sub_ofNat_succ]
  refine ⟨?_, ?_, ?_⟩
  · rw [ha, e, h.state]; cases r <;> rfl
  · rw [ha]
    have hs : Stored (s.sp r - BitVec.ofNat 16 bs.length) bs s
        (t.setSp r (s.sp r - BitVec.ofNat 16 bs.length - 1)) := by
      have hc : ∀ b, readByte (t.setSp r (s.sp r - BitVec.ofNat 16 bs.length - 1)) b = readByte t b :=
        fun b => readByte_congr (by simp) (by simp)
      exact ⟨fun k b hb hr => by rw [hc]; exact h.stored.1 k b hb hr, fun b hb => by rw [hc]; exact h.stored.2 b hb⟩
    exact hs.cons (by simp [h.platform]) hl hu
  · intro hw
    apply w.wf
    simpa using h.wf hw

theorem Pushed.push16 {r : StackReg} {bs : List Byte} {s t u : State} {v : Word} (h : Pushed r bs s t)
    (hl : bs.length + 1 < 65536) (hu : push16 r v t = .ok u) : Pushed r (wordBytes v ++ bs) s u := by
  simp only [Machine.push16, Bus.push16, plain_push8, Res.bind_ok] at hu
  obtain ⟨w, h1, h2⟩ := hu
  exact (h.push8 (by omega) h1).push8 (by simpa using hl) h2

theorem Pushed.pushByteIf {r : StackReg} {bs : List Byte} {s t u : State} {v : Byte} {named : Bool}
    (h : Pushed r bs s t) (hl : bs.length < 65536) (hu : Bus.plain.pushByteIf named r v t = .ok u) :
    Pushed r ((if named then [v] else []) ++ bs) s u := by
  cases named
  · obtain rfl := Except.ok.inj hu; exact h
  · exact h.push8 hl hu

theorem Pushed.pushWordIf {r : StackReg} {bs : List Byte} {s t u : State} {v : Word} {named : Bool}
    (h : Pushed r bs s t) (hl : bs.length + 1 < 65536) (hu : Bus.plain.pushWordIf named r v t = .ok u) :
    Pushed r ((if named then wordBytes v else []) ++ bs) s u := by
  cases named
  · obtain rfl := Except.ok.inj hu; exact h
  · exact h.push16 hl hu

theorem length_ite_word (p : Bool) (v : Word) : (if p then wordBytes v else []).length ≤ 2 := by
  cases p <;> simp [wordBytes]

theorem length_ite_byte (p : Bool) (v : Byte) : (if p then [v] else []).length ≤ 1 := by
  cases p <;> simp

/-- A push of a register list leaves its frame and changes nothing else (R84, R185, R186). -/
theorem pushList_pushed {r : StackReg} {l : RegList} {s t : State} (h : Bus.plain.pushList r l s = .ok t) :
    Pushed r (frameBytes r l s) s t := by
  simp only [Bus.pushList, Res.bind_ok] at h
  obtain ⟨s₁, h1, s₂, h2, s₃, h3, s₄, h4, s₅, h5, s₆, h6, s₇, h7, h8⟩ := h
  have l1 := length_ite_word l.pc s.pc
  have l2 := length_ite_word l.other (s.otherSp r)
  have l3 := length_ite_word l.y s.y
  have l4 := length_ite_word l.x s.x
  have l5 := length_ite_byte l.dp s.dp
  have l6 := length_ite_byte l.b s.b
  have l7 := length_ite_byte l.a s.a
  have p1 := (Pushed.nil r s).pushWordIf (by simp) h1
  have p2 := p1.pushWordIf (by simp only [List.length_append, List.length_nil]; omega) h2
  have p3 := p2.pushWordIf (by simp only [List.length_append, List.length_nil]; omega) h3
  have p4 := p3.pushWordIf (by simp only [List.length_append, List.length_nil]; omega) h4
  have p5 := p4.pushByteIf (by simp only [List.length_append, List.length_nil]; omega) h5
  have p6 := p5.pushByteIf (by simp only [List.length_append, List.length_nil]; omega) h6
  have p7 := p6.pushByteIf (by simp only [List.length_append, List.length_nil]; omega) h7
  have p8 := p7.pushByteIf (by simp only [List.length_append, List.length_nil]; omega) h8
  simpa only [frameBytes, List.append_assoc, List.append_nil] using p8

/-- The twelve addresses below a stack pointer read and write. -/
def RoomBelow (r : StackReg) (s : State) : Prop := ∀ k : Nat, k < 12 → s.Usable (s.sp r - BitVec.ofNat 16 (k + 1))

theorem Pushed.push8_room {r : StackReg} {bs : List Byte} {s t : State} (h : Pushed r bs s t) (hr : RoomBelow r s)
    (hl : bs.length < 12) (v : Byte) : ∃ u, Machine.push8 r v t = .ok u := by
  simp only [Machine.push8, Bus.push8, plain_write]
  apply writeByte_usable
  rw [h.sp, ← sub_ofNat_succ]
  exact (hr _ hl).congr (by simp [h.platform])

theorem Pushed.push16_room {r : StackReg} {bs : List Byte} {s t : State} (h : Pushed r bs s t) (hr : RoomBelow r s)
    (hl : bs.length + 1 < 12) (v : Word) : ∃ u, Machine.push16 r v t = .ok u := by
  obtain ⟨w, hw⟩ := h.push8_room hr (by omega) (loByte v)
  obtain ⟨u, hu⟩ := (h.push8 (by omega) hw).push8_room hr (by simpa using hl) (hiByte v)
  exact ⟨u, by simp only [Machine.push16, Bus.push16, plain_push8, Res.bind_ok]; exact ⟨w, hw, hu⟩⟩

theorem Pushed.pushByteIf_room {r : StackReg} {bs : List Byte} {s t : State} (h : Pushed r bs s t) (hr : RoomBelow r s)
    (hl : bs.length < 12) (named : Bool) (v : Byte) : ∃ u, Bus.plain.pushByteIf named r v t = .ok u := by
  cases named
  · exact ⟨t, rfl⟩
  · exact h.push8_room hr hl v

theorem Pushed.pushWordIf_room {r : StackReg} {bs : List Byte} {s t : State} (h : Pushed r bs s t) (hr : RoomBelow r s)
    (hl : bs.length + 1 < 12) (named : Bool) (v : Word) : ∃ u, Bus.plain.pushWordIf named r v t = .ok u := by
  cases named
  · exact ⟨t, rfl⟩
  · exact h.push16_room hr hl v

/-- A push of a register list succeeds where there is room below the pointer. -/
theorem pushList_room {r : StackReg} (l : RegList) {s : State} (hr : RoomBelow r s) : ∃ t, Bus.plain.pushList r l s = .ok t := by
  have l1 := length_ite_word l.pc s.pc
  have l2 := length_ite_word l.other (s.otherSp r)
  have l3 := length_ite_word l.y s.y
  have l4 := length_ite_word l.x s.x
  have l5 := length_ite_byte l.dp s.dp
  have l6 := length_ite_byte l.b s.b
  have l7 := length_ite_byte l.a s.a
  obtain ⟨s₁, h1⟩ := (Pushed.nil r s).pushWordIf_room hr (by simp) l.pc s.pc
  have p1 := (Pushed.nil r s).pushWordIf (by simp) h1
  obtain ⟨s₂, h2⟩ := p1.pushWordIf_room hr (by simp only [List.length_append, List.length_nil]; omega) l.other (s.otherSp r)
  have p2 := p1.pushWordIf (by simp only [List.length_append, List.length_nil]; omega) h2
  obtain ⟨s₃, h3⟩ := p2.pushWordIf_room hr (by simp only [List.length_append, List.length_nil]; omega) l.y s.y
  have p3 := p2.pushWordIf (by simp only [List.length_append, List.length_nil]; omega) h3
  obtain ⟨s₄, h4⟩ := p3.pushWordIf_room hr (by simp only [List.length_append, List.length_nil]; omega) l.x s.x
  have p4 := p3.pushWordIf (by simp only [List.length_append, List.length_nil]; omega) h4
  obtain ⟨s₅, h5⟩ := p4.pushByteIf_room hr (by simp only [List.length_append, List.length_nil]; omega) l.dp s.dp
  have p5 := p4.pushByteIf (by simp only [List.length_append, List.length_nil]; omega) h5
  obtain ⟨s₆, h6⟩ := p5.pushByteIf_room hr (by simp only [List.length_append, List.length_nil]; omega) l.b s.b
  have p6 := p5.pushByteIf (by simp only [List.length_append, List.length_nil]; omega) h6
  obtain ⟨s₇, h7⟩ := p6.pushByteIf_room hr (by simp only [List.length_append, List.length_nil]; omega) l.a s.a
  have p7 := p6.pushByteIf (by simp only [List.length_append, List.length_nil]; omega) h7
  obtain ⟨s₈, h8⟩ := p7.pushByteIf_room hr (by simp only [List.length_append, List.length_nil]; omega) l.cc s.cc
  exact ⟨s₈, by simp only [Bus.pushList, Res.bind_ok]; exact ⟨s₁, h1, s₂, h2, s₃, h3, s₄, h4, s₅, h5, s₆, h6, s₇, h7, h8⟩⟩

theorem State.NoHoles.roomBelow {s : State} (h : s.NoHoles) (r : StackReg) : RoomBelow r s := fun _ _ => h _

/-! ### Pulls -/

/-- From `s` to `t` the pointer has moved up by `n` and registers have been loaded; memory and all else are as before. -/
structure Pulled (r : StackReg) (n : Nat) (s t : State) : Prop where
  sp : t.sp r = s.sp r + BitVec.ofNat 16 n
  mem : t.mem = s.mem
  platform : t.platform = s.platform

theorem pull8_ok {r : StackReg} {s t : State} {v : Byte} :
    pull8 r s = .ok (v, t) ↔ readByte s (s.sp r) = .ok v ∧ t = s.setSp r (s.sp r + 1) := by
  simp only [pull8, Bus.pull8, plain_read, Res.bind_ok, Res.pure_ok, Prod.mk.injEq]
  constructor
  · rintro ⟨w, hw, rfl, rfl⟩; exact ⟨hw, rfl⟩
  · rintro ⟨hv, rfl⟩; exact ⟨v, hv, rfl, rfl⟩

theorem setSp_setSp (s : State) (r : StackReg) (v w : Word) : (s.setSp r v).setSp r w = s.setSp r w := by
  cases r <;> rfl

theorem readByte_setSp (s : State) (r : StackReg) (v a : Word) : readByte (s.setSp r v) a = readByte s a :=
  readByte_congr (by simp) (by simp)

theorem add_one_one (a : Word) : a + 1#16 + 1#16 = a + 2#16 := by
  apply BitVec.eq_of_toNat_eq; simp

/-- A pull of a word reads it high byte first and moves the pointer by 2 (R48). -/
theorem pull16_ok {r : StackReg} {s t : State} {v : Word} :
    pull16 r s = .ok (v, t) ↔ readWord s (s.sp r) = .ok v ∧ t = s.setSp r (s.sp r + 2) := by
  simp only [pull16, Bus.pull16, plain_pull8, Res.bind_ok, Res.pure_ok, Prod.exists, pull8_ok, Prod.mk.injEq, readWord_ok]
  constructor
  · rintro ⟨h, w, ⟨hh, rfl⟩, l, w', ⟨hl, rfl⟩, rfl, rfl⟩
    rw [readByte_setSp] at hl
    simp only [State.sp_setSp, if_true] at hl ⊢
    exact ⟨⟨by simpa using hh, by simpa using hl⟩, by simp [setSp_setSp, add_one_one]⟩
  · rintro ⟨⟨hh, hl⟩, rfl⟩
    refine ⟨hiByte v, _, ⟨hh, rfl⟩, loByte v, _, ⟨?_, rfl⟩, join_hiByte_loByte v, ?_⟩
    · rw [readByte_setSp]; simpa using hl
    · simp [setSp_setSp, add_one_one]

end Sys2Proof.Machine
end

