-- ==== Sys2Proof/Laws/Effects.lean ====
section
/-! SUPPORT. What each shared effect of Machine/Effects.lean, taking and leaving an exception (Machine/Ops.lean) and the
sampling point (Machine/Interrupts.lean) can do, said once: cite these, do not unfold the operations. -/

namespace Sys2Proof.Machine

/-! ### An accumulator and an 8-bit operand -/

theorem addToAcc_ok {r : Acc} {src : Src8} {cin : Bool} {s t : State} :
    Bus.plain.addToAcc r src cin s = .ok t ↔ ∃ m u, operand8 src s = .ok (m, u) ∧
      t = { u.setAcc r (add8 (u.acc r) m cin).value with cc := CC.ofSum8 u.cc (add8 (u.acc r) m cin) } := by
  simp only [Bus.addToAcc, plain_operand8, Res.bind_ok, Res.pure_ok, Prod.exists, @eq_comm _ _ t]

theorem subFromAcc_ok {r : Acc} {src : Src8} {bin : Bool} {s t : State} :
    Bus.plain.subFromAcc r src bin s = .ok t ↔ ∃ m u, operand8 src s = .ok (m, u) ∧
      t = { (u.draw.2).setAcc r (sub8 (u.acc r) m bin).value with
            cc := CC.ofAlu8 u.cc u.draw.1 (sub8 (u.acc r) m bin) } := by
  simp only [Bus.subFromAcc, plain_operand8, Res.bind_ok, Res.pure_ok, Prod.exists, @eq_comm _ _ t, State.draw]

theorem compareAcc_ok {r : Acc} {src : Src8} {s t : State} :
    Bus.plain.compareAcc r src s = .ok t ↔ ∃ m u, operand8 src s = .ok (m, u) ∧
      t = { u with cc := CC.ofAlu8 u.cc u.draw.1 (sub8 (u.acc r) m false), draws := u.draws + 1 } := by
  simp only [Bus.compareAcc, plain_operand8, Res.bind_ok, Res.pure_ok, Prod.exists, @eq_comm _ _ t, State.draw]

theorem logicToAcc_ok {r : Acc} {src : Src8} {op : Byte → Byte → Byte} {s t : State} :
    Bus.plain.logicToAcc r src op s = .ok t ↔ ∃ m u, operand8 src s = .ok (m, u) ∧
      t = { u.setAcc r (op (u.acc r) m) with cc := CC.logic8 u.cc (op (u.acc r) m) } := by
  simp only [Bus.logicToAcc, plain_operand8, Res.bind_ok, Res.pure_ok, Prod.exists, @eq_comm _ _ t]

theorem bitTestAcc_ok {r : Acc} {src : Src8} {s t : State} :
    Bus.plain.bitTestAcc r src s = .ok t ↔ ∃ m u, operand8 src s = .ok (m, u) ∧
      t = { u with cc := CC.logic8 u.cc (u.acc r &&& m) } := by
  simp only [Bus.bitTestAcc, plain_operand8, Res.bind_ok, Res.pure_ok, Prod.exists, @eq_comm _ _ t]

theorem loadAcc_ok {r : Acc} {src : Src8} {s t : State} :
    Bus.plain.loadAcc r src s = .ok t ↔ ∃ m u, operand8 src s = .ok (m, u) ∧
      t = { u.setAcc r m with cc := CC.logic8 u.cc m } := by
  simp only [Bus.loadAcc, plain_operand8, Res.bind_ok, Res.pure_ok, Prod.exists, @eq_comm _ _ t]

theorem storeAcc_ok {r : Acc} {m : MemOperand} {s t : State} :
    Bus.plain.storeAcc r m s = .ok t ↔ ∃ a u w, effectiveAddress m s = .ok (a, u) ∧ writeByte u a (u.acc r) = .ok w ∧
      t = { w with cc := CC.logic8 w.cc (u.acc r) } := by
  simp only [Bus.storeAcc, plain_effectiveAddress, plain_write, Res.bind_ok, Res.pure_ok, Prod.exists, exists_and_left, @eq_comm _ _ t]

/-! ### A single operand in memory -/

theorem modifyMem_ok {m : MemOperand} {op : Byte → Byte → Byte × Byte} {s t : State} :
    Bus.plain.modifyMem m op s = .ok t ↔ ∃ a u v, effectiveAddress m s = .ok (a, u) ∧ readByte u a = .ok v ∧
      writeByte { u with cc := (op v u.cc).2 } a (op v u.cc).1 = .ok t := by
  simp only [Bus.modifyMem, plain_effectiveAddress, plain_read, plain_write, Res.bind_ok, Prod.exists, exists_and_left]

theorem clearMem_ok {m : MemOperand} {s t : State} :
    Bus.plain.clearMem m s = .ok t ↔ ∃ a u, effectiveAddress m s = .ok (a, u) ∧
      writeByte { u with cc := CC.clear u.cc } a 0 = .ok t := by
  simp only [Bus.clearMem, plain_effectiveAddress, plain_write, Res.bind_ok, Prod.exists]

theorem testMem_ok {m : MemOperand} {s t : State} :
    Bus.plain.testMem m s = .ok t ↔ ∃ a u v, effectiveAddress m s = .ok (a, u) ∧ readByte u a = .ok v ∧
      t = { u with cc := CC.logic8 u.cc v } := by
  simp only [Bus.testMem, plain_effectiveAddress, plain_read, Res.bind_ok, Res.pure_ok, Prod.exists, exists_and_left, @eq_comm _ _ t]

/-! ### A 16-bit register and a 16-bit operand -/

theorem arithD_ok {op : Word → Word → Alu16} {src : Src16} {s t : State} :
    Bus.plain.arithD op src s = .ok t ↔ ∃ m u, operand16 src s = .ok (m, u) ∧
      t = { u.setD (op u.d m).value with cc := CC.ofAlu16 u.cc (op u.d m) } := by
  simp only [Bus.arithD, plain_operand16, Res.bind_ok, Res.pure_ok, Prod.exists, @eq_comm _ _ t]

theorem compare16_ok {r : Reg16} {src : Src16} {s t : State} :
    Bus.plain.compare16 r src s = .ok t ↔ ∃ m u, operand16 src s = .ok (m, u) ∧
      t = { u with cc := CC.ofAlu16 u.cc (sub16 (u.reg16 r) m) } := by
  simp only [Bus.compare16, plain_operand16, Res.bind_ok, Res.pure_ok, Prod.exists, @eq_comm _ _ t]

theorem loadReg16_ok {r : Reg16} {src : Src16} {s t : State} :
    Bus.plain.loadReg16 r src s = .ok t ↔ ∃ m u, operand16 src s = .ok (m, u) ∧
      t = { u.load16 r m with cc := CC.logic16 u.cc m } := by
  simp only [Bus.loadReg16, plain_operand16, Res.bind_ok, Res.pure_ok, Prod.exists, @eq_comm _ _ t]

theorem storeReg16_ok {r : Reg16} {m : MemOperand} {s t : State} :
    Bus.plain.storeReg16 r m s = .ok t ↔ ∃ a u w, effectiveAddress m s = .ok (a, u) ∧ writeWord u a (u.reg16 r) = .ok w ∧
      t = { w with cc := CC.logic16 w.cc (u.reg16 r) } := by
  simp only [Bus.storeReg16, plain_effectiveAddress, plain_writeWord, Res.bind_ok, Res.pure_ok, Prod.exists, exists_and_left, @eq_comm _ _ t]

theorem loadAddress_ok {r : Reg16} {m : Indexed} {s t : State} :
    Bus.plain.loadAddress r m s = .ok t ↔ ∃ a u, indexedEA m s = .ok (a, u) ∧ t = u.load16 r a := by
  simp only [Bus.loadAddress, plain_indexedEA, Res.bind_ok, Res.pure_ok, Prod.exists, @eq_comm _ _ t]

theorem loadAddressZ_ok {r : Reg16} {m : Indexed} {s t : State} :
    Bus.plain.loadAddressZ r m s = .ok t ↔ ∃ a u, indexedEA m s = .ok (a, u) ∧
      t = { u.load16 r a with cc := CC.put u.cc .z (a == 0) } := by
  simp only [Bus.loadAddressZ, plain_indexedEA, Res.bind_ok, Res.pure_ok, Prod.exists, @eq_comm _ _ t]

/-! ### Control flow -/

theorem jump_ok {m : MemOperand} {s t : State} :
    Bus.plain.jump m s = .ok t ↔ ∃ a u, effectiveAddress m s = .ok (a, u) ∧ t = { u with pc := a } := by
  simp only [Bus.jump, plain_effectiveAddress, Res.bind_ok, Res.pure_ok, Prod.exists, @eq_comm _ _ t]

theorem call_ok {target : Word} {s t : State} :
    Bus.plain.call target s = .ok t ↔ ∃ w, push16 .s s.pc s = .ok w ∧ t = { w with pc := target } := by
  simp only [Bus.call, plain_push16, Res.bind_ok, Res.pure_ok, @eq_comm _ _ t]

theorem jumpToSubroutine_ok {m : MemOperand} {s t : State} :
    Bus.plain.jumpToSubroutine m s = .ok t ↔ ∃ a u, effectiveAddress m s = .ok (a, u) ∧ Bus.plain.call a u = .ok t := by
  simp only [Bus.jumpToSubroutine, plain_effectiveAddress, Res.bind_ok, Prod.exists]

theorem returnFromSubroutine_ok {s t : State} :
    Bus.plain.returnFromSubroutine s = .ok t ↔ ∃ a u, pull16 .s s = .ok (a, u) ∧ t = { u with pc := a } := by
  simp only [Bus.returnFromSubroutine, plain_pull16, Res.bind_ok, Res.pure_ok, Prod.exists, @eq_comm _ _ t]

theorem waitForInterrupt_ok {m : Byte} {s t : State} :
    Bus.plain.waitForInterrupt m s = .ok t ↔ ∃ w, Bus.plain.pushFrame .entire { s with cc := s.cc &&& m } = .ok w ∧
      t = { w with runState := .cwaiWait } := by
  simp only [Bus.waitForInterrupt, Res.bind_ok, Res.pure_ok, @eq_comm _ _ t]

/-! ### Exceptions -/

theorem pushShortState_ok {s t : State} :
    Bus.plain.pushShortState s = .ok t ↔ ∃ w, push16 .s s.pc s = .ok w ∧ push8 .s s.cc w = .ok t := by
  simp only [Bus.pushShortState, plain_push16, plain_push8, Res.bind_ok]

/-- An entry stacks its frame, sets the masks, and takes PC from the vector, in that order. -/
theorem enterException_ok {f : Frame} {m : MaskUpdate} {ev : Event} {s t : State} :
    Bus.plain.enterException f m ev s = .ok t ↔ ∃ w target, Bus.plain.pushFrame f s = .ok w ∧ readWord w ev.vector = .ok target ∧
      t = { w with cc := m.apply w.cc, pc := target } := by
  simp only [Bus.enterException, plain_readWord, Res.bind_ok, Res.pure_ok]
  constructor
  · rintro ⟨w, hw, target, ht, rfl⟩
    exact ⟨w, target, hw, ht, rfl⟩
  · rintro ⟨w, target, hw, ht, rfl⟩
    exact ⟨w, hw, target, ht, rfl⟩

/-- A return pulls CC, then the rest of the entire state or PC alone, as the E it pulled says. -/
theorem returnFromException_ok {s t : State} :
    Bus.plain.returnFromException s = .ok t ↔ ∃ cc w, pull8 .s s = .ok (cc, w) ∧
      ((CC.get cc .e = true ∧ Bus.plain.pullList .s { RegList.all with cc := false } { w with cc := cc } = .ok t) ∨
       (CC.get cc .e = false ∧ ∃ a u, pull16 .s { w with cc := cc } = .ok (a, u) ∧ t = { u with pc := a })) := by
  simp only [Bus.returnFromException, plain_pull8, plain_pull16, Res.bind_ok, Prod.exists]
  constructor
  · rintro ⟨cc, w, hw, h⟩
    refine ⟨cc, w, hw, ?_⟩
    split at h
    · exact .inl ⟨‹_›, h⟩
    · simp only [Res.bind_ok, Res.pure_ok, Prod.exists] at h
      obtain ⟨a, u, hu, rfl⟩ := h
      exact .inr ⟨Bool.eq_false_iff.2 ‹_›, a, u, hu, rfl⟩
  · rintro ⟨cc, w, hw, ⟨he, h⟩ | ⟨he, a, u, hu, rfl⟩⟩
    · exact ⟨cc, w, hw, by rw [if_pos he]; exact h⟩
    · refine ⟨cc, w, hw, ?_⟩
      rw [if_neg (by simp [he])]
      simp only [Res.bind_ok, Res.pure_ok, Prod.exists]
      exact ⟨a, u, hu, rfl⟩

theorem resetSequence_ok {s t : State} :
    resetSequence s = .ok t ↔ ∃ target, readWord s Event.reset.vector = .ok target ∧
      t = { s with dp := 0, cc := MaskUpdate.setIF.apply s.cc, nmiArmed := false, nmiPending := false,
                   runState := .running, pc := target } := by
  simp only [resetSequence, Res.bind_ok, Res.pure_ok]
  constructor
  · rintro ⟨target, ht, rfl⟩
    exact ⟨target, ht, rfl⟩
  · rintro ⟨target, ht, rfl⟩
    exact ⟨target, ht, rfl⟩

/-! ### Fetch and the sampling point -/

theorem fetchInstr_ok {s t : State} {i : Instr} :
    fetchInstr s = .ok (i, t) ↔ ∃ n, decodeFrom (fun k => readByte s (s.pc + BitVec.ofNat 16 k))
      (fun w => Stop.fault (.undefined w)) = .ok (i, n) ∧ t = { s with pc := s.pc + BitVec.ofNat 16 n } := by
  simp only [fetchInstr, Res.bind_ok, Res.pure_ok, Prod.exists, Prod.mk.injEq]
  constructor
  · rintro ⟨j, n, h, rfl, rfl⟩
    exact ⟨n, h, rfl⟩
  · rintro ⟨n, h, rfl⟩
    exact ⟨i, n, h, rfl, rfl⟩

/-- The state in which a sampling point decides: the latched one, awake if it was waiting after SYNC. -/
theorem poll_state (s : State) :
    ∃ u : State, (u = s.latch ∧ s.runState ≠ .syncWait ∨ u = { s.latch with runState := .running } ∧ s.runState = .syncWait) ∧
      poll s =
        if s.latch.runState = .syncWait ∧ ¬(s.latch.nmiPending ∨ s.sample.firqLevel ∨ s.sample.irqLevel) then .wait s.latch
        else if u.nmiPending then .take .nmi u
        else if s.sample.firqLevel ∧ CC.get u.cc .f = false then .take .firq u
        else if s.sample.irqLevel ∧ CC.get u.cc .i = false then .take .irq u
        else if u.runState = .cwaiWait then .wait u
        else .execute u := by
  refine ⟨if s.latch.runState = .syncWait then { s.latch with runState := .running } else s.latch, ?_, rfl⟩
  by_cases hs : s.runState = .syncWait
  · exact .inr ⟨if_pos hs, hs⟩
  · exact .inl ⟨if_neg hs, hs⟩

/-- A sampling point that keeps waiting changes nothing but the latch. -/
theorem poll_wait {s t : State} (h : poll s = .wait t) :
    t = s.latch ∧ (s.runState = .syncWait ∨ s.runState = .cwaiWait) := by
  obtain ⟨u, hu, hp⟩ := poll_state s
  rw [hp] at h
  split at h
  · rename_i hw
    cases h
    exact ⟨rfl, .inl hw.1⟩
  · iterate 3 (split at h; · cases h)
    split at h
    · rename_i hc
      cases h
      obtain ⟨rfl, _⟩ | ⟨rfl, _⟩ := hu
      · exact ⟨rfl, .inr hc⟩
      · cases hc
    · cases h

/-- A sampling point that executes does so in the latched state, running, with no NMI pending and FIRQ and IRQ silent or
masked. -/
theorem poll_execute {s t : State} (h : poll s = .execute t) :
    t = { s.latch with runState := .running } ∧ s.runState ≠ .cwaiWait ∧ t.nmiPending = false ∧
      ¬(s.sample.firqLevel = true ∧ CC.get s.cc .f = false) ∧ ¬(s.sample.irqLevel = true ∧ CC.get s.cc .i = false) := by
  obtain ⟨u, hu, hp⟩ := poll_state s
  have hcc : u.cc = s.cc := by obtain ⟨rfl, _⟩ | ⟨rfl, _⟩ := hu <;> rfl
  rw [hp] at h
  split at h
  · cases h
  · split at h
    · cases h
    · rename_i hn
      split at h
      · cases h
      · split at h
        · cases h
        · split at h
          · cases h
          · rename_i hf hi hc
            cases h
            rw [hcc] at hf hi
            refine ⟨?_, ?_, Bool.eq_false_iff.2 hn, hf, hi⟩
            · obtain ⟨rfl, hs⟩ | ⟨rfl, _⟩ := hu
              · have hr : s.latch.runState = .running := by
                  cases hx : s.latch.runState with
                  | running => rfl
                  | cwaiWait => exact absurd hx hc
                  | syncWait => exact absurd hx hs
                rw [← hr]
              · rfl
            · obtain ⟨rfl, _⟩ | ⟨rfl, hs⟩ := hu
              · exact hc
              · rw [hs]
                decide

/-- A sampling point that takes an interrupt takes the NMI, the FIRQ or the IRQ, in the latched state. -/
theorem poll_take {s u : State} {k : Interrupt} (h : poll s = .take k u) :
    (u = s.latch ∧ s.runState ≠ .syncWait ∨ u = { s.latch with runState := .running } ∧ s.runState = .syncWait) ∧
      ((u.nmiPending = true ∧ k = .nmi) ∨
       (u.nmiPending = false ∧ s.sample.firqLevel = true ∧ CC.get s.cc .f = false ∧ k = .firq) ∨
       (u.nmiPending = false ∧ s.sample.irqLevel = true ∧ CC.get s.cc .i = false ∧ k = .irq)) := by
  obtain ⟨w, hu, hp⟩ := poll_state s
  have hcc : w.cc = s.cc := by obtain ⟨rfl, _⟩ | ⟨rfl, _⟩ := hu <;> rfl
  rw [hp, hcc] at h
  split at h
  · cases h
  · split at h
    · cases h
      exact ⟨hu, .inl ⟨‹_›, rfl⟩⟩
    · rename_i hn
      split at h
      · rename_i hf
        cases h
        exact ⟨hu, .inr (.inl ⟨Bool.eq_false_iff.2 hn, hf.1, hf.2, rfl⟩)⟩
      · split at h
        · rename_i hi
          cases h
          exact ⟨hu, .inr (.inr ⟨Bool.eq_false_iff.2 hn, hi.1, hi.2, rfl⟩)⟩
        · split at h
          · cases h
          · cases h

/-- A step that answers is one more turn of a wait, an entry, or one instruction. -/
theorem step_next {s t : State} (h : step s = .next t) :
    poll s = .wait t ∨ (∃ k u, poll s = .take k u ∧ Bus.plain.takeInterrupt k u = .ok t) ∨
      ∃ u i w, poll s = .execute u ∧ fetchInstr u = .ok (i, w) ∧ exec i w = .next t := by
  unfold step at h
  split at h
  · cases h
    exact .inl (by assumption)
  · exact .inr (.inl ⟨_, _, by assumption, finish_next.1 h⟩)
  · split at h
    · exact .inr (.inr ⟨_, _, _, by assumption, by assumption, h⟩)
    · exact absurd (finish_next.1 h) (by simp)

end Sys2Proof.Machine
end

