-- ==== Sys2Proof/Laws/PerInstr.lean ====
section
/-! SUPPORT. The family of per-instruction lemmas EncodedLength: an encoding takes one to five bytes (spec/30_encoding.md
R60). -/

namespace Sys2Proof.Laws

theorem opcodeBytes_length (page : Page) (op : Byte) :
    1 ≤ (opcodeBytes page op).length ∧ (opcodeBytes page op).length ≤ 2 := by
  cases page <;> simp [opcodeBytes]

theorem encodeIndexed_length (m : Indexed) : 1 ≤ (encodeIndexed m).length ∧ (encodeIndexed m).length ≤ 3 := by
  cases m <;> exact ⟨by simp [encodeIndexed], by simp [encodeIndexed]⟩

theorem encodeMem_length (page : Page) (dir idx ext : Byte) (m : MemOperand) :
    1 ≤ (encodeMem page dir idx ext m).length ∧ (encodeMem page dir idx ext m).length ≤ 5 := by
  cases m with
  | direct a => have := opcodeBytes_length page dir; simp [encodeMem]; omega
  | indexed m => have := opcodeBytes_length page idx; have := encodeIndexed_length m; simp [encodeMem]; omega
  | extended a => have := opcodeBytes_length page ext; simp [encodeMem]; omega

theorem encodeSrc8_length (page : Page) (imm dir idx ext : Byte) (src : Src8) :
    1 ≤ (encodeSrc8 page imm dir idx ext src).length ∧ (encodeSrc8 page imm dir idx ext src).length ≤ 5 := by
  cases src with
  | imm v => have := opcodeBytes_length page imm; simp [encodeSrc8]; omega
  | mem m => exact encodeMem_length page dir idx ext m

theorem encodeSrc16_length (page : Page) (imm dir idx ext : Byte) (src : Src16) :
    1 ≤ (encodeSrc16 page imm dir idx ext src).length ∧ (encodeSrc16 page imm dir idx ext src).length ≤ 5 := by
  cases src with
  | imm v => have := opcodeBytes_length page imm; simp [encodeSrc16]; omega
  | mem m => exact encodeMem_length page dir idx ext m

/-- A LEA: one opcode byte and an indexed operand. -/
theorem encodeLea_length (op : Byte) (m : Indexed) :
    1 ≤ (opcodeBytes .page1 op ++ encodeIndexed m).length ∧
      (opcodeBytes .page1 op ++ encodeIndexed m).length ≤ 5 := by
  have := encodeIndexed_length m
  simp [opcodeBytes]; omega

namespace EncodedLength

/-- A well-formed instruction is encoded in one to five bytes (R60). -/
def Statement (i : Instr) : Prop := i.WellFormed → 1 ≤ (encode i).length ∧ (encode i).length ≤ 5

theorem abx : Statement .abx :=
  fun _ => ⟨Nat.le_of_ble_eq_true rfl, Nat.le_of_ble_eq_true rfl⟩

theorem adca (src : Src8) : Statement (.adca src) :=
  fun _ => encodeSrc8_length _ _ _ _ _ src

theorem adcb (src : Src8) : Statement (.adcb src) :=
  fun _ => encodeSrc8_length _ _ _ _ _ src

theorem adda (src : Src8) : Statement (.adda src) :=
  fun _ => encodeSrc8_length _ _ _ _ _ src

theorem addb (src : Src8) : Statement (.addb src) :=
  fun _ => encodeSrc8_length _ _ _ _ _ src

theorem addd (src : Src16) : Statement (.addd src) :=
  fun _ => encodeSrc16_length _ _ _ _ _ src

theorem anda (src : Src8) : Statement (.anda src) :=
  fun _ => encodeSrc8_length _ _ _ _ _ src

theorem andb (src : Src8) : Statement (.andb src) :=
  fun _ => encodeSrc8_length _ _ _ _ _ src

theorem andcc (m : Byte) : Statement (.andcc m) :=
  fun _ => ⟨Nat.le_of_ble_eq_true rfl, Nat.le_of_ble_eq_true rfl⟩

theorem asla : Statement .asla :=
  fun _ => ⟨Nat.le_of_ble_eq_true rfl, Nat.le_of_ble_eq_true rfl⟩

theorem aslb : Statement .aslb :=
  fun _ => ⟨Nat.le_of_ble_eq_true rfl, Nat.le_of_ble_eq_true rfl⟩

theorem asl (m : MemOperand) : Statement (.asl m) :=
  fun _ => encodeMem_length _ _ _ _ m

theorem asra : Statement .asra :=
  fun _ => ⟨Nat.le_of_ble_eq_true rfl, Nat.le_of_ble_eq_true rfl⟩

theorem asrb : Statement .asrb :=
  fun _ => ⟨Nat.le_of_ble_eq_true rfl, Nat.le_of_ble_eq_true rfl⟩

theorem asr (m : MemOperand) : Statement (.asr m) :=
  fun _ => encodeMem_length _ _ _ _ m

theorem bita (src : Src8) : Statement (.bita src) :=
  fun _ => encodeSrc8_length _ _ _ _ _ src

theorem bitb (src : Src8) : Statement (.bitb src) :=
  fun _ => encodeSrc8_length _ _ _ _ _ src

theorem clra : Statement .clra :=
  fun _ => ⟨Nat.le_of_ble_eq_true rfl, Nat.le_of_ble_eq_true rfl⟩

theorem clrb : Statement .clrb :=
  fun _ => ⟨Nat.le_of_ble_eq_true rfl, Nat.le_of_ble_eq_true rfl⟩

theorem clr (m : MemOperand) : Statement (.clr m) :=
  fun _ => encodeMem_length _ _ _ _ m

theorem cmpa (src : Src8) : Statement (.cmpa src) :=
  fun _ => encodeSrc8_length _ _ _ _ _ src

theorem cmpb (src : Src8) : Statement (.cmpb src) :=
  fun _ => encodeSrc8_length _ _ _ _ _ src

theorem cmpd (src : Src16) : Statement (.cmpd src) :=
  fun _ => encodeSrc16_length _ _ _ _ _ src

theorem cmps (src : Src16) : Statement (.cmps src) :=
  fun _ => encodeSrc16_length _ _ _ _ _ src

theorem cmpu (src : Src16) : Statement (.cmpu src) :=
  fun _ => encodeSrc16_length _ _ _ _ _ src

theorem cmpx (src : Src16) : Statement (.cmpx src) :=
  fun _ => encodeSrc16_length _ _ _ _ _ src

theorem cmpy (src : Src16) : Statement (.cmpy src) :=
  fun _ => encodeSrc16_length _ _ _ _ _ src

theorem coma : Statement .coma :=
  fun _ => ⟨Nat.le_of_ble_eq_true rfl, Nat.le_of_ble_eq_true rfl⟩

theorem comb : Statement .comb :=
  fun _ => ⟨Nat.le_of_ble_eq_true rfl, Nat.le_of_ble_eq_true rfl⟩

theorem com (m : MemOperand) : Statement (.com m) :=
  fun _ => encodeMem_length _ _ _ _ m

theorem cwai (m : Byte) : Statement (.cwai m) :=
  fun _ => ⟨Nat.le_of_ble_eq_true rfl, Nat.le_of_ble_eq_true rfl⟩

theorem daa : Statement .daa :=
  fun _ => ⟨Nat.le_of_ble_eq_true rfl, Nat.le_of_ble_eq_true rfl⟩

theorem deca : Statement .deca :=
  fun _ => ⟨Nat.le_of_ble_eq_true rfl, Nat.le_of_ble_eq_true rfl⟩

theorem decb : Statement .decb :=
  fun _ => ⟨Nat.le_of_ble_eq_true rfl, Nat.le_of_ble_eq_true rfl⟩

theorem dec (m : MemOperand) : Statement (.dec m) :=
  fun _ => encodeMem_length _ _ _ _ m

theorem eora (src : Src8) : Statement (.eora src) :=
  fun _ => encodeSrc8_length _ _ _ _ _ src

theorem eorb (src : Src8) : Statement (.eorb src) :=
  fun _ => encodeSrc8_length _ _ _ _ _ src

theorem exg (r1 r2 : Reg) : Statement (.exg r1 r2) :=
  fun _ => ⟨Nat.le_of_ble_eq_true rfl, Nat.le_of_ble_eq_true rfl⟩

theorem inca : Statement .inca :=
  fun _ => ⟨Nat.le_of_ble_eq_true rfl, Nat.le_of_ble_eq_true rfl⟩

theorem incb : Statement .incb :=
  fun _ => ⟨Nat.le_of_ble_eq_true rfl, Nat.le_of_ble_eq_true rfl⟩

theorem inc (m : MemOperand) : Statement (.inc m) :=
  fun _ => encodeMem_length _ _ _ _ m

theorem jmp (m : MemOperand) : Statement (.jmp m) :=
  fun _ => encodeMem_length _ _ _ _ m

theorem jsr (m : MemOperand) : Statement (.jsr m) :=
  fun _ => encodeMem_length _ _ _ _ m

theorem lda (src : Src8) : Statement (.lda src) :=
  fun _ => encodeSrc8_length _ _ _ _ _ src

theorem ldb (src : Src8) : Statement (.ldb src) :=
  fun _ => encodeSrc8_length _ _ _ _ _ src

theorem ldd (src : Src16) : Statement (.ldd src) :=
  fun _ => encodeSrc16_length _ _ _ _ _ src

theorem lds (src : Src16) : Statement (.lds src) :=
  fun _ => encodeSrc16_length _ _ _ _ _ src

theorem ldu (src : Src16) : Statement (.ldu src) :=
  fun _ => encodeSrc16_length _ _ _ _ _ src

theorem ldx (src : Src16) : Statement (.ldx src) :=
  fun _ => encodeSrc16_length _ _ _ _ _ src

theorem ldy (src : Src16) : Statement (.ldy src) :=
  fun _ => encodeSrc16_length _ _ _ _ _ src

theorem leas (m : Indexed) : Statement (.leas m) :=
  fun _ => encodeLea_length _ m

theorem leau (m : Indexed) : Statement (.leau m) :=
  fun _ => encodeLea_length _ m

theorem leax (m : Indexed) : Statement (.leax m) :=
  fun _ => encodeLea_length _ m

theorem leay (m : Indexed) : Statement (.leay m) :=
  fun _ => encodeLea_length _ m

theorem lsla : Statement .lsla :=
  fun _ => ⟨Nat.le_of_ble_eq_true rfl, Nat.le_of_ble_eq_true rfl⟩

theorem lslb : Statement .lslb :=
  fun _ => ⟨Nat.le_of_ble_eq_true rfl, Nat.le_of_ble_eq_true rfl⟩

theorem lsl (m : MemOperand) : Statement (.lsl m) :=
  fun _ => encodeMem_length _ _ _ _ m

theorem lsra : Statement .lsra :=
  fun _ => ⟨Nat.le_of_ble_eq_true rfl, Nat.le_of_ble_eq_true rfl⟩

theorem lsrb : Statement .lsrb :=
  fun _ => ⟨Nat.le_of_ble_eq_true rfl, Nat.le_of_ble_eq_true rfl⟩

theorem lsr (m : MemOperand) : Statement (.lsr m) :=
  fun _ => encodeMem_length _ _ _ _ m

theorem mul : Statement .mul :=
  fun _ => ⟨Nat.le_of_ble_eq_true rfl, Nat.le_of_ble_eq_true rfl⟩

theorem nega : Statement .nega :=
  fun _ => ⟨Nat.le_of_ble_eq_true rfl, Nat.le_of_ble_eq_true rfl⟩

theorem negb : Statement .negb :=
  fun _ => ⟨Nat.le_of_ble_eq_true rfl, Nat.le_of_ble_eq_true rfl⟩

theorem neg (m : MemOperand) : Statement (.neg m) :=
  fun _ => encodeMem_length _ _ _ _ m

theorem nop : Statement .nop :=
  fun _ => ⟨Nat.le_of_ble_eq_true rfl, Nat.le_of_ble_eq_true rfl⟩

theorem ora (src : Src8) : Statement (.ora src) :=
  fun _ => encodeSrc8_length _ _ _ _ _ src

theorem orb (src : Src8) : Statement (.orb src) :=
  fun _ => encodeSrc8_length _ _ _ _ _ src

theorem orcc (m : Byte) : Statement (.orcc m) :=
  fun _ => ⟨Nat.le_of_ble_eq_true rfl, Nat.le_of_ble_eq_true rfl⟩

theorem pshs (l : RegList) : Statement (.pshs l) :=
  fun _ => ⟨Nat.le_of_ble_eq_true rfl, Nat.le_of_ble_eq_true rfl⟩

theorem pshu (l : RegList) : Statement (.pshu l) :=
  fun _ => ⟨Nat.le_of_ble_eq_true rfl, Nat.le_of_ble_eq_true rfl⟩

theorem puls (l : RegList) : Statement (.puls l) :=
  fun _ => ⟨Nat.le_of_ble_eq_true rfl, Nat.le_of_ble_eq_true rfl⟩

theorem pulu (l : RegList) : Statement (.pulu l) :=
  fun _ => ⟨Nat.le_of_ble_eq_true rfl, Nat.le_of_ble_eq_true rfl⟩

theorem rola : Statement .rola :=
  fun _ => ⟨Nat.le_of_ble_eq_true rfl, Nat.le_of_ble_eq_true rfl⟩

theorem rolb : Statement .rolb :=
  fun _ => ⟨Nat.le_of_ble_eq_true rfl, Nat.le_of_ble_eq_true rfl⟩

theorem rol (m : MemOperand) : Statement (.rol m) :=
  fun _ => encodeMem_length _ _ _ _ m

theorem rora : Statement .rora :=
  fun _ => ⟨Nat.le_of_ble_eq_true rfl, Nat.le_of_ble_eq_true rfl⟩

theorem rorb : Statement .rorb :=
  fun _ => ⟨Nat.le_of_ble_eq_true rfl, Nat.le_of_ble_eq_true rfl⟩

theorem ror (m : MemOperand) : Statement (.ror m) :=
  fun _ => encodeMem_length _ _ _ _ m

theorem rti : Statement .rti :=
  fun _ => ⟨Nat.le_of_ble_eq_true rfl, Nat.le_of_ble_eq_true rfl⟩

theorem rts : Statement .rts :=
  fun _ => ⟨Nat.le_of_ble_eq_true rfl, Nat.le_of_ble_eq_true rfl⟩

theorem sbca (src : Src8) : Statement (.sbca src) :=
  fun _ => encodeSrc8_length _ _ _ _ _ src

theorem sbcb (src : Src8) : Statement (.sbcb src) :=
  fun _ => encodeSrc8_length _ _ _ _ _ src

theorem sex : Statement .sex :=
  fun _ => ⟨Nat.le_of_ble_eq_true rfl, Nat.le_of_ble_eq_true rfl⟩

theorem sta (m : MemOperand) : Statement (.sta m) :=
  fun _ => encodeMem_length _ _ _ _ m

theorem stb (m : MemOperand) : Statement (.stb m) :=
  fun _ => encodeMem_length _ _ _ _ m

theorem std (m : MemOperand) : Statement (.std m) :=
  fun _ => encodeMem_length _ _ _ _ m

theorem sts (m : MemOperand) : Statement (.sts m) :=
  fun _ => encodeMem_length _ _ _ _ m

theorem stu (m : MemOperand) : Statement (.stu m) :=
  fun _ => encodeMem_length _ _ _ _ m

theorem stx (m : MemOperand) : Statement (.stx m) :=
  fun _ => encodeMem_length _ _ _ _ m

theorem sty (m : MemOperand) : Statement (.sty m) :=
  fun _ => encodeMem_length _ _ _ _ m

theorem suba (src : Src8) : Statement (.suba src) :=
  fun _ => encodeSrc8_length _ _ _ _ _ src

theorem subb (src : Src8) : Statement (.subb src) :=
  fun _ => encodeSrc8_length _ _ _ _ _ src

theorem subd (src : Src16) : Statement (.subd src) :=
  fun _ => encodeSrc16_length _ _ _ _ _ src

theorem swi : Statement .swi :=
  fun _ => ⟨Nat.le_of_ble_eq_true rfl, Nat.le_of_ble_eq_true rfl⟩

theorem swi2 : Statement .swi2 :=
  fun _ => ⟨Nat.le_of_ble_eq_true rfl, Nat.le_of_ble_eq_true rfl⟩

theorem swi3 : Statement .swi3 :=
  fun _ => ⟨Nat.le_of_ble_eq_true rfl, Nat.le_of_ble_eq_true rfl⟩

theorem sync : Statement .sync :=
  fun _ => ⟨Nat.le_of_ble_eq_true rfl, Nat.le_of_ble_eq_true rfl⟩

theorem tfr (r1 r2 : Reg) : Statement (.tfr r1 r2) :=
  fun _ => ⟨Nat.le_of_ble_eq_true rfl, Nat.le_of_ble_eq_true rfl⟩

theorem tsta : Statement .tsta :=
  fun _ => ⟨Nat.le_of_ble_eq_true rfl, Nat.le_of_ble_eq_true rfl⟩

theorem tstb : Statement .tstb :=
  fun _ => ⟨Nat.le_of_ble_eq_true rfl, Nat.le_of_ble_eq_true rfl⟩

theorem tst (m : MemOperand) : Statement (.tst m) :=
  fun _ => encodeMem_length _ _ _ _ m

theorem bcc (o : Byte) : Statement (.bcc o) :=
  fun _ => ⟨Nat.le_of_ble_eq_true rfl, Nat.le_of_ble_eq_true rfl⟩

theorem lbcc (o : Word) : Statement (.lbcc o) :=
  fun _ => ⟨Nat.le_of_ble_eq_true rfl, Nat.le_of_ble_eq_true rfl⟩

theorem bcs (o : Byte) : Statement (.bcs o) :=
  fun _ => ⟨Nat.le_of_ble_eq_true rfl, Nat.le_of_ble_eq_true rfl⟩

theorem lbcs (o : Word) : Statement (.lbcs o) :=
  fun _ => ⟨Nat.le_of_ble_eq_true rfl, Nat.le_of_ble_eq_true rfl⟩

theorem beq (o : Byte) : Statement (.beq o) :=
  fun _ => ⟨Nat.le_of_ble_eq_true rfl, Nat.le_of_ble_eq_true rfl⟩

theorem lbeq (o : Word) : Statement (.lbeq o) :=
  fun _ => ⟨Nat.le_of_ble_eq_true rfl, Nat.le_of_ble_eq_true rfl⟩

theorem bge (o : Byte) : Statement (.bge o) :=
  fun _ => ⟨Nat.le_of_ble_eq_true rfl, Nat.le_of_ble_eq_true rfl⟩

theorem lbge (o : Word) : Statement (.lbge o) :=
  fun _ => ⟨Nat.le_of_ble_eq_true rfl, Nat.le_of_ble_eq_true rfl⟩

theorem bgt (o : Byte) : Statement (.bgt o) :=
  fun _ => ⟨Nat.le_of_ble_eq_true rfl, Nat.le_of_ble_eq_true rfl⟩

theorem lbgt (o : Word) : Statement (.lbgt o) :=
  fun _ => ⟨Nat.le_of_ble_eq_true rfl, Nat.le_of_ble_eq_true rfl⟩

theorem bhi (o : Byte) : Statement (.bhi o) :=
  fun _ => ⟨Nat.le_of_ble_eq_true rfl, Nat.le_of_ble_eq_true rfl⟩

theorem lbhi (o : Word) : Statement (.lbhi o) :=
  fun _ => ⟨Nat.le_of_ble_eq_true rfl, Nat.le_of_ble_eq_true rfl⟩

theorem bhs (o : Byte) : Statement (.bhs o) :=
  fun _ => ⟨Nat.le_of_ble_eq_true rfl, Nat.le_of_ble_eq_true rfl⟩

theorem lbhs (o : Word) : Statement (.lbhs o) :=
  fun _ => ⟨Nat.le_of_ble_eq_true rfl, Nat.le_of_ble_eq_true rfl⟩

theorem ble (o : Byte) : Statement (.ble o) :=
  fun _ => ⟨Nat.le_of_ble_eq_true rfl, Nat.le_of_ble_eq_true rfl⟩

theorem lble (o : Word) : Statement (.lble o) :=
  fun _ => ⟨Nat.le_of_ble_eq_true rfl, Nat.le_of_ble_eq_true rfl⟩

theorem blo (o : Byte) : Statement (.blo o) :=
  fun _ => ⟨Nat.le_of_ble_eq_true rfl, Nat.le_of_ble_eq_true rfl⟩

theorem lblo (o : Word) : Statement (.lblo o) :=
  fun _ => ⟨Nat.le_of_ble_eq_true rfl, Nat.le_of_ble_eq_true rfl⟩

theorem bls (o : Byte) : Statement (.bls o) :=
  fun _ => ⟨Nat.le_of_ble_eq_true rfl, Nat.le_of_ble_eq_true rfl⟩

theorem lbls (o : Word) : Statement (.lbls o) :=
  fun _ => ⟨Nat.le_of_ble_eq_true rfl, Nat.le_of_ble_eq_true rfl⟩

theorem blt (o : Byte) : Statement (.blt o) :=
  fun _ => ⟨Nat.le_of_ble_eq_true rfl, Nat.le_of_ble_eq_true rfl⟩

theorem lblt (o : Word) : Statement (.lblt o) :=
  fun _ => ⟨Nat.le_of_ble_eq_true rfl, Nat.le_of_ble_eq_true rfl⟩

theorem bmi (o : Byte) : Statement (.bmi o) :=
  fun _ => ⟨Nat.le_of_ble_eq_true rfl, Nat.le_of_ble_eq_true rfl⟩

theorem lbmi (o : Word) : Statement (.lbmi o) :=
  fun _ => ⟨Nat.le_of_ble_eq_true rfl, Nat.le_of_ble_eq_true rfl⟩

theorem bne (o : Byte) : Statement (.bne o) :=
  fun _ => ⟨Nat.le_of_ble_eq_true rfl, Nat.le_of_ble_eq_true rfl⟩

theorem lbne (o : Word) : Statement (.lbne o) :=
  fun _ => ⟨Nat.le_of_ble_eq_true rfl, Nat.le_of_ble_eq_true rfl⟩

theorem bpl (o : Byte) : Statement (.bpl o) :=
  fun _ => ⟨Nat.le_of_ble_eq_true rfl, Nat.le_of_ble_eq_true rfl⟩

theorem lbpl (o : Word) : Statement (.lbpl o) :=
  fun _ => ⟨Nat.le_of_ble_eq_true rfl, Nat.le_of_ble_eq_true rfl⟩

theorem bra (o : Byte) : Statement (.bra o) :=
  fun _ => ⟨Nat.le_of_ble_eq_true rfl, Nat.le_of_ble_eq_true rfl⟩

theorem lbra (o : Word) : Statement (.lbra o) :=
  fun _ => ⟨Nat.le_of_ble_eq_true rfl, Nat.le_of_ble_eq_true rfl⟩

theorem brn (o : Byte) : Statement (.brn o) :=
  fun _ => ⟨Nat.le_of_ble_eq_true rfl, Nat.le_of_ble_eq_true rfl⟩

theorem lbrn (o : Word) : Statement (.lbrn o) :=
  fun _ => ⟨Nat.le_of_ble_eq_true rfl, Nat.le_of_ble_eq_true rfl⟩

theorem bsr (o : Byte) : Statement (.bsr o) :=
  fun _ => ⟨Nat.le_of_ble_eq_true rfl, Nat.le_of_ble_eq_true rfl⟩

theorem lbsr (o : Word) : Statement (.lbsr o) :=
  fun _ => ⟨Nat.le_of_ble_eq_true rfl, Nat.le_of_ble_eq_true rfl⟩

theorem bvc (o : Byte) : Statement (.bvc o) :=
  fun _ => ⟨Nat.le_of_ble_eq_true rfl, Nat.le_of_ble_eq_true rfl⟩

theorem lbvc (o : Word) : Statement (.lbvc o) :=
  fun _ => ⟨Nat.le_of_ble_eq_true rfl, Nat.le_of_ble_eq_true rfl⟩

theorem bvs (o : Byte) : Statement (.bvs o) :=
  fun _ => ⟨Nat.le_of_ble_eq_true rfl, Nat.le_of_ble_eq_true rfl⟩

theorem lbvs (o : Word) : Statement (.lbvs o) :=
  fun _ => ⟨Nat.le_of_ble_eq_true rfl, Nat.le_of_ble_eq_true rfl⟩

end EncodedLength

end Sys2Proof.Laws
end

