-- ==== Sys2Proof/Laws/Reset.lean ====
section
/-! SUPPORT. The effect of an instruction access by access agrees with its effect as a whole: it ends as that does once it
has had all its moments, and before that it has reached some state (R340). -/

namespace Sys2Proof.Machine

/-! ### Agreement -/

/-- After the last of its moments `p` ends as `r` does; before that it has reached some state. -/
def Counted.Agrees {α : Type} (p : Counted α) (r : Res α) : Prop :=
  ∃ k, (∀ n, p (k + n) = match r with | .ok v => .ok (v, n) | .error e => .error (.stop e)) ∧
    ∀ n < k, ∃ u, p n = .error (.reached u)

theorem Counted.Agrees.pure {α : Type} (v : α) : Counted.Agrees (Pure.pure v) (Pure.pure v) :=
  ⟨0, fun n => by rw [Nat.zero_add]; rfl, fun n hn => absurd hn (Nat.not_lt_zero n)⟩

theorem Counted.agrees_ofRes {α : Type} (r : Res α) : Counted.Agrees (Counted.ofRes r) r := by
  refine ⟨0, fun n => ?_, fun n hn => absurd hn (Nat.not_lt_zero n)⟩
  rw [Nat.zero_add]
  cases r <;> rfl

theorem Counted.Agrees.bind {α β : Type} {p : Counted α} {r : Res α} {f : α → Counted β} {g : α → Res β}
    (h : p.Agrees r) (hf : ∀ v, (f v).Agrees (g v)) : Counted.Agrees (p >>= f) (r >>= g) := by
  obtain ⟨k, h1, h2⟩ := h
  cases r with
  | error e =>
    refine ⟨k, fun n => ?_, fun n hn => ?_⟩
    · change ((p (k + n)) >>= fun x => f x.1 x.2) = _
      rw [h1]
      rfl
    · obtain ⟨u, hu⟩ := h2 n hn
      refine ⟨u, ?_⟩
      change ((p n) >>= fun x => f x.1 x.2) = _
      rw [hu]
      rfl
  | ok v =>
    obtain ⟨j, g1, g2⟩ := hf v
    refine ⟨k + j, fun n => ?_, fun n hn => ?_⟩
    · change ((p (k + j + n)) >>= fun x => f x.1 x.2) = _
      rw [Nat.add_assoc, h1]
      exact g1 n
    · change ∃ u, ((p n) >>= fun x => f x.1 x.2) = _
      by_cases hk : n < k
      · obtain ⟨u, hu⟩ := h2 n hk
        exact ⟨u, by rw [hu]; rfl⟩
      · obtain ⟨d, rfl⟩ := Nat.exists_eq_add_of_le (Nat.le_of_not_lt hk)
        obtain ⟨u, hu⟩ := g2 d (by omega)
        exact ⟨u, by rw [h1]; exact hu⟩

/-- At moment `n` an effect that completes has reached some state, and its result from some moment on. -/
theorem Counted.Agrees.stateAt {p : Counted State} {t : State} (h : p.Agrees (.ok t)) :
    (∀ n, ∃ u, p.stateAt n = .ok u) ∧ ∃ k, ∀ n, k ≤ n → p.stateAt n = .ok t := by
  obtain ⟨k, h1, h2⟩ := h
  have late : ∀ n, k ≤ n → p.stateAt n = .ok t := by
    intro n hn
    obtain ⟨d, rfl⟩ := Nat.exists_eq_add_of_le hn
    simp only [Counted.stateAt, StateT.run, h1]
  refine ⟨fun n => ?_, k, late⟩
  by_cases hn : n < k
  · obtain ⟨u, hu⟩ := h2 n hn
    exact ⟨u, by simp only [Counted.stateAt, StateT.run, hu]⟩
  · exact ⟨t, late n (Nat.le_of_not_lt hn)⟩

/-! ### Accesses -/

theorem Counted.agrees_moment (s : State) : Counted.Agrees (Counted.moment s) (.ok ()) := by
  refine ⟨1, fun n => ?_, fun n hn => ?_⟩
  · rw [Nat.add_comm]
    rfl
  · obtain rfl : n = 0 := by omega
    exact ⟨s, rfl⟩

theorem Res.bind_pure {α : Type} (r : Res α) : (r >>= fun v => Pure.pure v) = r := by
  cases r <;> rfl

theorem agrees_read (s : State) (a : Word) : Counted.Agrees (Bus.counted.read s a) (Bus.plain.read s a) := by
  have h := (Counted.agrees_moment s).bind fun _ => (Counted.agrees_ofRes (readByte s a)).bind fun v =>
    (Counted.agrees_moment s).bind fun _ => Counted.Agrees.pure v
  change Counted.Agrees _ (readByte s a)
  rw [← Res.bind_pure (readByte s a)]
  exact h

theorem agrees_write (s : State) (a : Word) (v : Byte) :
    Counted.Agrees (Bus.counted.write s a v) (Bus.plain.write s a v) := by
  have h := (Counted.agrees_moment s).bind fun _ => (Counted.agrees_ofRes (writeByte s a v)).bind fun t =>
    (Counted.agrees_moment t).bind fun _ => Counted.Agrees.pure t
  change Counted.Agrees _ (writeByte s a v)
  rw [← Res.bind_pure (writeByte s a v)]
  exact h

theorem agrees_inner (o : Host.Outcome State Fault Refusal) :
    Counted.Agrees (Bus.counted.inner o) (Bus.plain.inner o) :=
  Counted.agrees_ofRes _

/-! ### Shared operations -/

theorem agrees_readWord (s : State) (a : Word) :
    Counted.Agrees (Bus.counted.readWord s a) (Bus.plain.readWord s a) :=
  (agrees_read _ _).bind fun _ => (agrees_read _ _).bind fun _ => .pure _

theorem agrees_writeWord (s : State) (a v : Word) :
    Counted.Agrees (Bus.counted.writeWord s a v) (Bus.plain.writeWord s a v) :=
  (agrees_write _ _ _).bind fun _ => agrees_write _ _ _

theorem agrees_push8 (r : StackReg) (v : Byte) (s : State) :
    Counted.Agrees (Bus.counted.push8 r v s) (Bus.plain.push8 r v s) :=
  agrees_write _ _ _

theorem agrees_push16 (r : StackReg) (v : Word) (s : State) :
    Counted.Agrees (Bus.counted.push16 r v s) (Bus.plain.push16 r v s) :=
  (agrees_push8 _ _ _).bind fun _ => agrees_push8 _ _ _

theorem agrees_pull8 (r : StackReg) (s : State) :
    Counted.Agrees (Bus.counted.pull8 r s) (Bus.plain.pull8 r s) :=
  (agrees_read _ _).bind fun _ => .pure _

theorem agrees_pull16 (r : StackReg) (s : State) :
    Counted.Agrees (Bus.counted.pull16 r s) (Bus.plain.pull16 r s) :=
  (agrees_pull8 _ _).bind fun _ => (agrees_pull8 _ _).bind fun _ => .pure _

theorem agrees_pushByteIf (p : Bool) (r : StackReg) (v : Byte) (s : State) :
    Counted.Agrees (Bus.counted.pushByteIf p r v s) (Bus.plain.pushByteIf p r v s) :=
  match p with
  | true => agrees_push8 _ _ _
  | false => .pure _

theorem agrees_pushWordIf (p : Bool) (r : StackReg) (v : Word) (s : State) :
    Counted.Agrees (Bus.counted.pushWordIf p r v s) (Bus.plain.pushWordIf p r v s) :=
  match p with
  | true => agrees_push16 _ _ _
  | false => .pure _

theorem agrees_pullByteIf (p : Bool) (r : StackReg) (f : State → Byte → State) (s : State) :
    Counted.Agrees (Bus.counted.pullByteIf p r f s) (Bus.plain.pullByteIf p r f s) :=
  match p with
  | true => (agrees_pull8 _ _).bind fun _ => .pure _
  | false => .pure _

theorem agrees_pullWordIf (p : Bool) (r : StackReg) (f : State → Word → State) (s : State) :
    Counted.Agrees (Bus.counted.pullWordIf p r f s) (Bus.plain.pullWordIf p r f s) :=
  match p with
  | true => (agrees_pull16 _ _).bind fun _ => .pure _
  | false => .pure _

theorem agrees_pushList (r : StackReg) (l : RegList) (s : State) :
    Counted.Agrees (Bus.counted.pushList r l s) (Bus.plain.pushList r l s) :=
  (agrees_pushWordIf _ _ _ _).bind fun _ =>
  (agrees_pushWordIf _ _ _ _).bind fun _ =>
  (agrees_pushWordIf _ _ _ _).bind fun _ =>
  (agrees_pushWordIf _ _ _ _).bind fun _ =>
  (agrees_pushByteIf _ _ _ _).bind fun _ =>
  (agrees_pushByteIf _ _ _ _).bind fun _ =>
  (agrees_pushByteIf _ _ _ _).bind fun _ =>
  agrees_pushByteIf _ _ _ _

theorem agrees_pullList (r : StackReg) (l : RegList) (s : State) :
    Counted.Agrees (Bus.counted.pullList r l s) (Bus.plain.pullList r l s) :=
  (agrees_pullByteIf _ _ _ _).bind fun _ =>
  (agrees_pullByteIf _ _ _ _).bind fun _ =>
  (agrees_pullByteIf _ _ _ _).bind fun _ =>
  (agrees_pullByteIf _ _ _ _).bind fun _ =>
  (agrees_pullWordIf _ _ _ _).bind fun _ =>
  (agrees_pullWordIf _ _ _ _).bind fun _ =>
  (agrees_pullWordIf _ _ _ _).bind fun _ =>
  agrees_pullWordIf _ _ _ _

theorem agrees_pushEntireState (s : State) :
    Counted.Agrees (Bus.counted.pushEntireState s) (Bus.plain.pushEntireState s) :=
  agrees_pushList _ _ _

theorem agrees_pushShortState (s : State) :
    Counted.Agrees (Bus.counted.pushShortState s) (Bus.plain.pushShortState s) :=
  (agrees_push16 _ _ _).bind fun _ => agrees_push8 _ _ _

theorem agrees_pushFrame (f : Frame) (s : State) :
    Counted.Agrees (Bus.counted.pushFrame f s) (Bus.plain.pushFrame f s) :=
  match f with
  | .entire => agrees_pushEntireState _
  | .short => agrees_pushShortState _
  | .stacked => .pure _

theorem agrees_enterException (f : Frame) (m : MaskUpdate) (ev : Event) (s : State) :
    Counted.Agrees (Bus.counted.enterException f m ev s) (Bus.plain.enterException f m ev s) :=
  (agrees_pushFrame _ _).bind fun _ => (agrees_readWord _ _).bind fun _ => .pure _

theorem agrees_returnFromException (s : State) :
    Counted.Agrees (Bus.counted.returnFromException s) (Bus.plain.returnFromException s) := by
  refine (agrees_pull8 _ _).bind fun p => ?_
  dsimp only
  split
  · exact agrees_pullList _ _ _
  · exact (agrees_pull16 _ _).bind fun _ => .pure _

theorem agrees_indexedEA (m : Indexed) (s : State) :
    Counted.Agrees (Bus.counted.indexedEA m s) (Bus.plain.indexedEA m s) := by
  simp only [Bus.indexedEA]
  split
  · exact (agrees_readWord _ _).bind fun _ => .pure _
  · exact .pure _

theorem agrees_effectiveAddress (m : MemOperand) (s : State) :
    Counted.Agrees (Bus.counted.effectiveAddress m s) (Bus.plain.effectiveAddress m s) :=
  match m with
  | .direct _ => .pure _
  | .indexed _ => agrees_indexedEA _ _
  | .extended _ => .pure _

theorem agrees_operand8 (src : Src8) (s : State) :
    Counted.Agrees (Bus.counted.operand8 src s) (Bus.plain.operand8 src s) :=
  match src with
  | .imm _ => .pure _
  | .mem _ => (agrees_effectiveAddress _ _).bind fun _ => (agrees_read _ _).bind fun _ => .pure _

theorem agrees_operand16 (src : Src16) (s : State) :
    Counted.Agrees (Bus.counted.operand16 src s) (Bus.plain.operand16 src s) :=
  match src with
  | .imm _ => .pure _
  | .mem _ => (agrees_effectiveAddress _ _).bind fun _ => (agrees_readWord _ _).bind fun _ => .pure _

theorem agrees_addToAcc (r : Acc) (src : Src8) (c : Bool) (s : State) :
    Counted.Agrees (Bus.counted.addToAcc r src c s) (Bus.plain.addToAcc r src c s) :=
  (agrees_operand8 _ _).bind fun _ => .pure _

theorem agrees_subFromAcc (r : Acc) (src : Src8) (c : Bool) (s : State) :
    Counted.Agrees (Bus.counted.subFromAcc r src c s) (Bus.plain.subFromAcc r src c s) :=
  (agrees_operand8 _ _).bind fun _ => .pure _

theorem agrees_compareAcc (r : Acc) (src : Src8) (s : State) :
    Counted.Agrees (Bus.counted.compareAcc r src s) (Bus.plain.compareAcc r src s) :=
  (agrees_operand8 _ _).bind fun _ => .pure _

theorem agrees_logicToAcc (r : Acc) (src : Src8) (op : Byte → Byte → Byte) (s : State) :
    Counted.Agrees (Bus.counted.logicToAcc r src op s) (Bus.plain.logicToAcc r src op s) :=
  (agrees_operand8 _ _).bind fun _ => .pure _

theorem agrees_bitTestAcc (r : Acc) (src : Src8) (s : State) :
    Counted.Agrees (Bus.counted.bitTestAcc r src s) (Bus.plain.bitTestAcc r src s) :=
  (agrees_operand8 _ _).bind fun _ => .pure _

theorem agrees_loadAcc (r : Acc) (src : Src8) (s : State) :
    Counted.Agrees (Bus.counted.loadAcc r src s) (Bus.plain.loadAcc r src s) :=
  (agrees_operand8 _ _).bind fun _ => .pure _

theorem agrees_storeAcc (r : Acc) (m : MemOperand) (s : State) :
    Counted.Agrees (Bus.counted.storeAcc r m s) (Bus.plain.storeAcc r m s) :=
  (agrees_effectiveAddress _ _).bind fun _ => (agrees_write _ _ _).bind fun _ => .pure _

theorem agrees_modifyMem (m : MemOperand) (op : Byte → Byte → Byte × Byte) (s : State) :
    Counted.Agrees (Bus.counted.modifyMem m op s) (Bus.plain.modifyMem m op s) :=
  (agrees_effectiveAddress _ _).bind fun _ => (agrees_read _ _).bind fun _ => agrees_write _ _ _

theorem agrees_modifyMemDrawing (m : MemOperand) (op : Bool → Byte → Byte → Byte × Byte) (s : State) :
    Counted.Agrees (Bus.counted.modifyMemDrawing m op s) (Bus.plain.modifyMemDrawing m op s) :=
  agrees_modifyMem _ _ _

theorem agrees_clearMem (m : MemOperand) (s : State) :
    Counted.Agrees (Bus.counted.clearMem m s) (Bus.plain.clearMem m s) :=
  (agrees_effectiveAddress _ _).bind fun _ => agrees_write _ _ _

theorem agrees_testMem (m : MemOperand) (s : State) :
    Counted.Agrees (Bus.counted.testMem m s) (Bus.plain.testMem m s) :=
  (agrees_effectiveAddress _ _).bind fun _ => (agrees_read _ _).bind fun _ => .pure _

theorem agrees_arithD (op : Word → Word → Alu16) (src : Src16) (s : State) :
    Counted.Agrees (Bus.counted.arithD op src s) (Bus.plain.arithD op src s) :=
  (agrees_operand16 _ _).bind fun _ => .pure _

theorem agrees_compare16 (r : Reg16) (src : Src16) (s : State) :
    Counted.Agrees (Bus.counted.compare16 r src s) (Bus.plain.compare16 r src s) :=
  (agrees_operand16 _ _).bind fun _ => .pure _

theorem agrees_loadReg16 (r : Reg16) (src : Src16) (s : State) :
    Counted.Agrees (Bus.counted.loadReg16 r src s) (Bus.plain.loadReg16 r src s) :=
  (agrees_operand16 _ _).bind fun _ => .pure _

theorem agrees_storeReg16 (r : Reg16) (m : MemOperand) (s : State) :
    Counted.Agrees (Bus.counted.storeReg16 r m s) (Bus.plain.storeReg16 r m s) :=
  (agrees_effectiveAddress _ _).bind fun _ => (agrees_writeWord _ _ _).bind fun _ => .pure _

theorem agrees_loadAddress (r : Reg16) (m : Indexed) (s : State) :
    Counted.Agrees (Bus.counted.loadAddress r m s) (Bus.plain.loadAddress r m s) :=
  (agrees_indexedEA _ _).bind fun _ => .pure _

theorem agrees_loadAddressZ (r : Reg16) (m : Indexed) (s : State) :
    Counted.Agrees (Bus.counted.loadAddressZ r m s) (Bus.plain.loadAddressZ r m s) :=
  (agrees_indexedEA _ _).bind fun _ => .pure _

theorem agrees_jump (m : MemOperand) (s : State) :
    Counted.Agrees (Bus.counted.jump m s) (Bus.plain.jump m s) :=
  (agrees_effectiveAddress _ _).bind fun _ => .pure _

theorem agrees_call (a : Word) (s : State) :
    Counted.Agrees (Bus.counted.call a s) (Bus.plain.call a s) :=
  (agrees_push16 _ _ _).bind fun _ => .pure _

theorem agrees_jumpToSubroutine (m : MemOperand) (s : State) :
    Counted.Agrees (Bus.counted.jumpToSubroutine m s) (Bus.plain.jumpToSubroutine m s) :=
  (agrees_effectiveAddress _ _).bind fun _ => agrees_call _ _

theorem agrees_returnFromSubroutine (s : State) :
    Counted.Agrees (Bus.counted.returnFromSubroutine s) (Bus.plain.returnFromSubroutine s) :=
  (agrees_pull16 _ _).bind fun _ => .pure _

theorem agrees_waitForInterrupt (m : Byte) (s : State) :
    Counted.Agrees (Bus.counted.waitForInterrupt m s) (Bus.plain.waitForInterrupt m s) :=
  (agrees_pushFrame _ _).bind fun _ => .pure _

theorem agrees_takeInterrupt (k : Interrupt) (s : State) :
    Counted.Agrees (Bus.counted.takeInterrupt k s) (Bus.plain.takeInterrupt k s) :=
  match k with
  | .nmi => agrees_enterException _ _ _ _
  | .firq => agrees_enterException _ _ _ _
  | .irq => agrees_enterException _ _ _ _

/-! ### Instructions -/

theorem Res.ofOutcome_finish (r : Res State) : Res.ofOutcome (finish r) = r := by
  match r with
  | .ok _ => rfl
  | .error (.fault _) => rfl
  | .error (.refused _) => rfl

theorem Counted.Agrees.finish {p : Counted State} {r : Res State} (h : p.Agrees r) :
    p.Agrees (Res.ofOutcome (finish r)) := by
  rw [Res.ofOutcome_finish]
  exact h

/-- Access by access every instruction does what `exec` does. -/
theorem agrees_perform (i : Instr) (s : State) :
    Counted.Agrees (Bus.counted.perform i s) (Res.ofOutcome (exec i s)) := by
  match i with
  | .abx => exact agrees_inner _
  | .adca _ => exact (agrees_addToAcc _ _ _ _).finish
  | .adcb _ => exact (agrees_addToAcc _ _ _ _).finish
  | .adda _ => exact (agrees_addToAcc _ _ _ _).finish
  | .addb _ => exact (agrees_addToAcc _ _ _ _).finish
  | .addd _ => exact (agrees_arithD _ _ _).finish
  | .anda _ => exact (agrees_logicToAcc _ _ _ _).finish
  | .andb _ => exact (agrees_logicToAcc _ _ _ _).finish
  | .andcc _ => exact agrees_inner _
  | .asla => exact agrees_inner _
  | .aslb => exact agrees_inner _
  | .asl _ => exact (agrees_modifyMemDrawing _ _ _).finish
  | .asra => exact agrees_inner _
  | .asrb => exact agrees_inner _
  | .asr _ => exact (agrees_modifyMemDrawing _ _ _).finish
  | .bita _ => exact (agrees_bitTestAcc _ _ _).finish
  | .bitb _ => exact (agrees_bitTestAcc _ _ _).finish
  | .clra => exact agrees_inner _
  | .clrb => exact agrees_inner _
  | .clr _ => exact (agrees_clearMem _ _).finish
  | .cmpa _ => exact (agrees_compareAcc _ _ _).finish
  | .cmpb _ => exact (agrees_compareAcc _ _ _).finish
  | .cmpd _ => exact (agrees_compare16 _ _ _).finish
  | .cmps _ => exact (agrees_compare16 _ _ _).finish
  | .cmpu _ => exact (agrees_compare16 _ _ _).finish
  | .cmpx _ => exact (agrees_compare16 _ _ _).finish
  | .cmpy _ => exact (agrees_compare16 _ _ _).finish
  | .coma => exact agrees_inner _
  | .comb => exact agrees_inner _
  | .com _ => exact (agrees_modifyMem _ _ _).finish
  | .cwai _ => exact (agrees_waitForInterrupt _ _).finish
  | .daa => exact agrees_inner _
  | .deca => exact agrees_inner _
  | .decb => exact agrees_inner _
  | .dec _ => exact (agrees_modifyMem _ _ _).finish
  | .eora _ => exact (agrees_logicToAcc _ _ _ _).finish
  | .eorb _ => exact (agrees_logicToAcc _ _ _ _).finish
  | .exg _ _ => exact agrees_inner _
  | .inca => exact agrees_inner _
  | .incb => exact agrees_inner _
  | .inc _ => exact (agrees_modifyMem _ _ _).finish
  | .jmp _ => exact (agrees_jump _ _).finish
  | .jsr _ => exact (agrees_jumpToSubroutine _ _).finish
  | .lda _ => exact (agrees_loadAcc _ _ _).finish
  | .ldb _ => exact (agrees_loadAcc _ _ _).finish
  | .ldd _ => exact (agrees_loadReg16 _ _ _).finish
  | .lds _ => exact (agrees_loadReg16 _ _ _).finish
  | .ldu _ => exact (agrees_loadReg16 _ _ _).finish
  | .ldx _ => exact (agrees_loadReg16 _ _ _).finish
  | .ldy _ => exact (agrees_loadReg16 _ _ _).finish
  | .leas _ => exact (agrees_loadAddress _ _ _).finish
  | .leau _ => exact (agrees_loadAddress _ _ _).finish
  | .leax _ => exact (agrees_loadAddressZ _ _ _).finish
  | .leay _ => exact (agrees_loadAddressZ _ _ _).finish
  | .lsla => exact agrees_inner _
  | .lslb => exact agrees_inner _
  | .lsl _ => exact (agrees_modifyMemDrawing _ _ _).finish
  | .lsra => exact agrees_inner _
  | .lsrb => exact agrees_inner _
  | .lsr _ => exact (agrees_modifyMem _ _ _).finish
  | .mul => exact agrees_inner _
  | .nega => exact agrees_inner _
  | .negb => exact agrees_inner _
  | .neg _ => exact (agrees_modifyMemDrawing _ _ _).finish
  | .nop => exact agrees_inner _
  | .ora _ => exact (agrees_logicToAcc _ _ _ _).finish
  | .orb _ => exact (agrees_logicToAcc _ _ _ _).finish
  | .orcc _ => exact agrees_inner _
  | .pshs _ => exact (agrees_pushList _ _ _).finish
  | .pshu _ => exact (agrees_pushList _ _ _).finish
  | .puls _ => exact (agrees_pullList _ _ _).finish
  | .pulu _ => exact (agrees_pullList _ _ _).finish
  | .rola => exact agrees_inner _
  | .rolb => exact agrees_inner _
  | .rol _ => exact (agrees_modifyMem _ _ _).finish
  | .rora => exact agrees_inner _
  | .rorb => exact agrees_inner _
  | .ror _ => exact (agrees_modifyMem _ _ _).finish
  | .rti => exact (agrees_returnFromException _).finish
  | .rts => exact (agrees_returnFromSubroutine _).finish
  | .sbca _ => exact (agrees_subFromAcc _ _ _ _).finish
  | .sbcb _ => exact (agrees_subFromAcc _ _ _ _).finish
  | .sex => exact agrees_inner _
  | .sta _ => exact (agrees_storeAcc _ _ _).finish
  | .stb _ => exact (agrees_storeAcc _ _ _).finish
  | .std _ => exact (agrees_storeReg16 _ _ _).finish
  | .sts _ => exact (agrees_storeReg16 _ _ _).finish
  | .stu _ => exact (agrees_storeReg16 _ _ _).finish
  | .stx _ => exact (agrees_storeReg16 _ _ _).finish
  | .sty _ => exact (agrees_storeReg16 _ _ _).finish
  | .suba _ => exact (agrees_subFromAcc _ _ _ _).finish
  | .subb _ => exact (agrees_subFromAcc _ _ _ _).finish
  | .subd _ => exact (agrees_arithD _ _ _).finish
  | .swi => exact (agrees_enterException _ _ _ _).finish
  | .swi2 => exact (agrees_enterException _ _ _ _).finish
  | .swi3 => exact (agrees_enterException _ _ _ _).finish
  | .sync => exact agrees_inner _
  | .tfr _ _ => exact agrees_inner _
  | .tsta => exact agrees_inner _
  | .tstb => exact agrees_inner _
  | .tst _ => exact (agrees_testMem _ _).finish
  | .bcc _ => exact agrees_inner _
  | .lbcc _ => exact agrees_inner _
  | .bcs _ => exact agrees_inner _
  | .lbcs _ => exact agrees_inner _
  | .beq _ => exact agrees_inner _
  | .lbeq _ => exact agrees_inner _
  | .bge _ => exact agrees_inner _
  | .lbge _ => exact agrees_inner _
  | .bgt _ => exact agrees_inner _
  | .lbgt _ => exact agrees_inner _
  | .bhi _ => exact agrees_inner _
  | .lbhi _ => exact agrees_inner _
  | .bhs _ => exact agrees_inner _
  | .lbhs _ => exact agrees_inner _
  | .ble _ => exact agrees_inner _
  | .lble _ => exact agrees_inner _
  | .blo _ => exact agrees_inner _
  | .lblo _ => exact agrees_inner _
  | .bls _ => exact agrees_inner _
  | .lbls _ => exact agrees_inner _
  | .blt _ => exact agrees_inner _
  | .lblt _ => exact agrees_inner _
  | .bmi _ => exact agrees_inner _
  | .lbmi _ => exact agrees_inner _
  | .bne _ => exact agrees_inner _
  | .lbne _ => exact agrees_inner _
  | .bpl _ => exact agrees_inner _
  | .lbpl _ => exact agrees_inner _
  | .bra _ => exact agrees_inner _
  | .lbra _ => exact agrees_inner _
  | .brn _ => exact agrees_inner _
  | .lbrn _ => exact agrees_inner _
  | .bsr _ => exact (agrees_call _ _).finish
  | .lbsr _ => exact (agrees_call _ _).finish
  | .bvc _ => exact agrees_inner _
  | .lbvc _ => exact agrees_inner _
  | .bvs _ => exact agrees_inner _
  | .lbvs _ => exact agrees_inner _

/-- The plain bus performs what `exec` does. -/
theorem plain_perform (i : Instr) (s : State) : Bus.plain.perform i s = Res.ofOutcome (exec i s) := by
  cases i <;> first | rfl | exact (Res.ofOutcome_finish _).symm

/-! ### Fetch -/

/-- `g` answers the bytes of `f` below index `c`, and stops with `x` there. -/
structure CutAt {ε ε' : Type} (f : Nat → Except ε Byte) (g : Nat → Except ε' Byte) (c : Nat) (x : ε') : Prop where
  below : ∀ k b, k < c → f k = .ok b → g k = .ok b
  atCut : g c = .error x

/-- A parse `p` from index `k` on and the same parse `q` cut at `c`: `p` reads every byte up to where it ends, and `q` stops
with `x` if byte `c` is one of them, and else answers as `p`. -/
def ReadsAll {α ε ε' : Type} (p : Except ε (α × Nat)) (q : Except ε' (α × Nat)) (k c : Nat) (x : ε') : Prop :=
  ∀ v e, p = .ok (v, e) → k ≤ e ∧ (k ≤ c → q = if c < e then .error x else .ok (v, e))

section
variable {α ε ε' : Type} {f : Nat → Except ε Byte} {g : Nat → Except ε' Byte} {k c : Nat} {x : ε'}

theorem ReadsAll.pure (v : α) : ReadsAll (Pure.pure (v, k) : Except ε (α × Nat)) (Pure.pure (v, k)) k c x := by
  intro w e h
  cases h
  exact ⟨Nat.le_refl _, fun hk => by rw [if_neg (by omega)]; rfl⟩

theorem ReadsAll.throw {r : ε} {q : Except ε' (α × Nat)} : ReadsAll (throw r : Except ε (α × Nat)) q k c x := by
  intro w e h
  cases h

theorem ReadsAll.map {β : Type} {p : Except ε (α × Nat)} {q : Except ε' (α × Nat)} (h : ReadsAll p q k c x) (F : α → β) :
    ReadsAll (p >>= fun r => Pure.pure (F r.1, r.2)) (q >>= fun r => Pure.pure (F r.1, r.2)) k c x := by
  intro w e he
  match p, h with
  | .error _, _ => cases he
  | .ok (v, n), h =>
    cases he
    obtain ⟨h1, h2⟩ := h v n rfl
    refine ⟨h1, fun hk => ?_⟩
    rw [h2 hk]
    split <;> rfl

theorem CutAt.bind_byte (h : CutAt f g c x) {F : Byte → Except ε (α × Nat)} {G : Byte → Except ε' (α × Nat)}
    (hFG : ∀ b, ReadsAll (F b) (G b) (k + 1) c x) : ReadsAll (f k >>= F) (g k >>= G) k c x := by
  intro v e he
  match hb : f k with
  | .error _ => rw [hb] at he; cases he
  | .ok b =>
    rw [hb] at he
    obtain ⟨h2, h3⟩ := hFG b v e he
    refine ⟨by omega, fun hk => ?_⟩
    by_cases hc : k = c
    · subst hc
      rw [h.atCut, if_pos (by omega)]
      rfl
    · rw [h.below k b (by omega) hb]
      exact h3 (by omega)

theorem CutAt.bind_word (h : CutAt f g c x) {F : Word → Except ε (α × Nat)} {G : Word → Except ε' (α × Nat)}
    (hFG : ∀ w, ReadsAll (F w) (G w) (k + 2) c x) : ReadsAll (fetch16 f k >>= F) (fetch16 g k >>= G) k c x := by
  have e1 : (fetch16 f k >>= F) = f k >>= fun a => f (k + 1) >>= fun b => F (join a b) := by
    unfold fetch16
    cases f k with
    | error _ => rfl
    | ok a => cases f (k + 1) <;> rfl
  have e2 : (fetch16 g k >>= G) = g k >>= fun a => g (k + 1) >>= fun b => G (join a b) := by
    unfold fetch16
    cases g k with
    | error _ => rfl
    | ok a => cases g (k + 1) <;> rfl
  rw [e1, e2]
  exact h.bind_byte fun a => h.bind_byte fun b => hFG _

variable {u : Undefined → ε} {u' : Undefined → ε'}

theorem CutAt.decodeIndexed (h : CutAt f g c x) :
    ReadsAll (decodeIndexed f u k) (decodeIndexed g u' k) k c x := by
  refine h.bind_byte fun pb => ?_
  dsimp only
  split
  · exact .pure _
  · split <;> first
      | exact .pure _
      | exact .throw
      | exact h.bind_byte fun _ => .pure _
      | exact h.bind_word fun _ => .pure _
      | (split <;> first | exact .pure _ | exact .throw | exact h.bind_word fun _ => .pure _)

theorem CutAt.parse (h : CutAt f g c x) (t : Template) :
    ReadsAll (t.parse f u k) (t.parse g u' k) k c x := by
  match t with
  | .inherent _ => exact .pure _
  | .imm8 _ => exact h.bind_byte fun _ => .pure _
  | .imm16 _ => exact h.bind_word fun _ => .pure _
  | .direct _ => exact h.bind_byte fun _ => .pure _
  | .indexedMem F => exact h.decodeIndexed.map fun m => F (.indexed m)
  | .extended _ => exact h.bind_word fun _ => .pure _
  | .indexed F => exact h.decodeIndexed.map F
  | .regPair F =>
    refine h.bind_byte fun pb => ?_
    cases pairOfByte pb with
    | none => exact .throw
    | some r => exact .pure _
  | .regList _ => exact h.bind_byte fun _ => .pure _

theorem CutAt.decodeFrom (h : CutAt f g c x) : ReadsAll (decodeFrom f u) (decodeFrom g u') 0 c x := by
  have op : ∀ (p : Page) (b : Byte) (k : Nat), ReadsAll (decodeOpcode f u p b k) (decodeOpcode g u' p b k) k c x := by
    intro p b k
    unfold decodeOpcode
    cases lookupRow b p.rows with
    | none => exact .throw
    | some t => exact h.parse t
  refine h.bind_byte fun b0 => ?_
  split
  · exact h.bind_byte fun b => op _ _ _
  · split
    · exact h.bind_byte fun b => op _ _ _
    · exact op _ _ _

end

/-- A fetch of `len` bytes takes `2 * len` moments. -/
theorem fetchCounted_run {s t : State} {i : Instr} {len : Nat}
    (h : decodeFrom (fun k => readByte s (s.pc + BitVec.ofNat 16 k)) (fun w => Stop.fault (.undefined w)) = .ok (i, len))
    (ht : t = { s with pc := s.pc + BitVec.ofNat 16 len }) (n : Nat) :
    fetchCounted s n =
      if n < 2 * len then .error (.reached { s with pc := s.pc + BitVec.ofNat 16 ((n + 1) / 2) })
      else .ok ((i, t), n - 2 * len) := by
  subst ht
  let f : Nat → Res Byte := fun k => readByte s (s.pc + BitVec.ofNat 16 k)
  let g : Nat → Except Halt Byte := fun k =>
    if n ≤ 2 * k then .error (.reached { s with pc := s.pc + BitVec.ofNat 16 k })
    else
      match f k with
      | .error r => .error (.stop r)
      | .ok b => if n = 2 * k + 1 then .error (.reached { s with pc := s.pc + BitVec.ofNat 16 (k + 1) }) else .ok b
  change (decodeFrom g (fun w => Halt.stop (.fault (.undefined w))) >>= fun r =>
    Pure.pure ((r.1, { s with pc := s.pc + BitVec.ofNat 16 r.2 }), n - 2 * r.2)) = _
  have below : ∀ k b, k < n / 2 → f k = .ok b → g k = .ok b := by
    intro k b hk hb
    simp only [g, hb]
    rw [if_neg (by omega), if_neg (by omega)]
  match hb : f (n / 2) with
  | .error r =>
    have h1 := (CutAt.decodeFrom (f := f) (g := f) (u' := fun w => Stop.fault (.undefined w))
      ⟨fun _ _ _ h => h, hb⟩ i len h).2 (Nat.zero_le _)
    have hlen : ¬n / 2 < len := by
      intro hlt
      rw [if_pos hlt] at h1
      rw [show decodeFrom f (fun w => Stop.fault (.undefined w)) = .ok (i, len) from h] at h1
      cases h1
    have hg : ∃ y, g (n / 2) = .error y := by
      simp only [g, hb]
      split <;> exact ⟨_, rfl⟩
    obtain ⟨y, hy⟩ := hg
    rw [(CutAt.decodeFrom (f := f) ⟨below, hy⟩ i len h).2 (Nat.zero_le _), if_neg hlen, if_neg (by omega)]
    rfl
  | .ok b =>
    have hy : g (n / 2) = .error (.reached { s with pc := s.pc + BitVec.ofNat 16 ((n + 1) / 2) }) := by
      simp only [g, hb]
      by_cases hn : n ≤ 2 * (n / 2)
      · rw [if_pos hn, show (n + 1) / 2 = n / 2 by omega]
      · rw [if_neg hn, if_pos (by omega), show (n + 1) / 2 = n / 2 + 1 by omega]
    rw [(CutAt.decodeFrom (f := f) ⟨below, hy⟩ i len h).2 (Nat.zero_le _)]
    by_cases hn : n < 2 * len
    · rw [if_pos hn, if_pos (by omega)]
      rfl
    · rw [if_neg hn, if_neg (by omega)]
      rfl

/-- A step that executes an instruction spends two moments on each byte of it, and then the moments of its effect. -/
theorem stateInside_execute {s u w : State} {i : Instr} {len : Nat} (hp : poll s = .execute u)
    (h : decodeFrom (fun k => readByte u (u.pc + BitVec.ofNat 16 k)) (fun w => Stop.fault (.undefined w)) = .ok (i, len))
    (hw : w = { u with pc := u.pc + BitVec.ofNat 16 len }) (n : Nat) :
    stateInside n s =
      if n < 2 * len then .ok { u with pc := u.pc + BitVec.ofNat 16 ((n + 1) / 2) }
      else Counted.stateAt (Bus.counted.perform i w) (n - 2 * len) := by
  have hf := fetchCounted_run h hw n
  unfold stateInside
  rw [hp]
  by_cases hn : n < 2 * len
  · rw [if_pos hn] at hf ⊢
    simp only [Counted.stateAt, StateT.run]
    change (match (fetchCounted u n) >>= (fun r => Bus.counted.perform r.1.1 r.1.2 r.2) with
      | .ok (t, _) => Except.ok t
      | .error (.reached u) => .ok u
      | .error (.stop r) => .error r) = _
    rw [hf]
    rfl
  · rw [if_neg hn] at hf ⊢
    simp only [Counted.stateAt, StateT.run]
    change (match (fetchCounted u n) >>= (fun r => Bus.counted.perform r.1.1 r.1.2 r.2) with
      | .ok (t, _) => Except.ok t
      | .error (.reached u) => .ok u
      | .error (.stop r) => .error r) = _
    rw [hf]
    rfl

end Sys2Proof.Machine
end

