-- ==== Sys2Proof/Tests/Slice0.lean ====
section
/-! SUPPORT. The tests of this model: the well-formedness check, decoding by words written out from the spec's tables,
single steps with the results of spec/95_test_vectors.md, and, for every statement with hypotheses, a state that meets
them. -/

namespace Sys2Proof.Tests
open Sys2Proof.Machine

set_option maxRecDepth 4000

/-! ### Well-formedness: an ill-formed term for each check -/

theorem test_wf_tfr_two_widths : (Instr.tfr (.r8 .a) (.r16 .x)).wellFormed = false := by decide
theorem test_wf_tfr_two_widths_reversed : (Instr.tfr (.r16 .x) (.r8 .a)).wellFormed = false := by decide
theorem test_wf_exg_two_widths : (Instr.exg (.r8 .cc) (.r16 .pc)).wellFormed = false := by decide
theorem test_wf_exg_two_widths_reversed : (Instr.exg (.r16 .pc) (.r8 .cc)).wellFormed = false := by decide
theorem test_wf_pairs_of_one_width :
    (Instr.tfr (.r16 .d) (.r16 .pc)).wellFormed = true ∧ (Instr.exg (.r8 .dp) (.r8 .cc)).wellFormed = true := by decide

/-! ### Decoding -/

/-- Every listed byte sequence decodes, whole, to the instruction beside it. -/
def decodesAll (rows : List (List Byte × Instr)) : Bool :=
  rows.all (fun r =>
    match decode r.1 with
    | .ok (i, n) => decide (i = r.2) && n == r.1.length
    | .error _ => false)

/-- Every row of these instructions, written out from spec/95_test_vectors.md 1.1 and the operand bytes of R64 to R84. -/
theorem test_decode_accumulator_arithmetic : decodesAll [
    ([0x89, 0x5A], .adca (.imm 0x5A)),
    ([0x99, 0x80], .adca (.mem (.direct 0x80))),
    ([0xA9, 0x84], .adca (.mem (.indexed (.noOffset .x false)))),
    ([0xB9, 0x80, 0x01], .adca (.mem (.extended 0x8001))),
    ([0xC9, 0x5A], .adcb (.imm 0x5A)),
    ([0xD9, 0x80], .adcb (.mem (.direct 0x80))),
    ([0xE9, 0x05], .adcb (.mem (.indexed (.offset5 .x 5)))),
    ([0xF9, 0x80, 0x01], .adcb (.mem (.extended 0x8001))),
    ([0x8B, 0x5A], .adda (.imm 0x5A)),
    ([0x9B, 0x80], .adda (.mem (.direct 0x80))),
    ([0xAB, 0x3F], .adda (.mem (.indexed (.offset5 .y 31)))),
    ([0xBB, 0x80, 0x01], .adda (.mem (.extended 0x8001))),
    ([0xCB, 0x5A], .addb (.imm 0x5A)),
    ([0xDB, 0x80], .addb (.mem (.direct 0x80))),
    ([0xEB, 0xC0], .addb (.mem (.indexed (.postInc1 .u)))),
    ([0xFB, 0x80, 0x01], .addb (.mem (.extended 0x8001))),
    ([0x81, 0x5A], .cmpa (.imm 0x5A)),
    ([0x91, 0x80], .cmpa (.mem (.direct 0x80))),
    ([0xA1, 0xA6], .cmpa (.mem (.indexed (.accA .y false)))),
    ([0xB1, 0x80, 0x01], .cmpa (.mem (.extended 0x8001))),
    ([0xC1, 0x5A], .cmpb (.imm 0x5A)),
    ([0xD1, 0x80], .cmpb (.mem (.direct 0x80))),
    ([0xE1, 0x96], .cmpb (.mem (.indexed (.accA .x true)))),
    ([0xF1, 0x80, 0x01], .cmpb (.mem (.extended 0x8001))),
    ([0x82, 0x5A], .sbca (.imm 0x5A)),
    ([0x92, 0x80], .sbca (.mem (.direct 0x80))),
    ([0xA2, 0x8B], .sbca (.mem (.indexed (.accD .x false)))),
    ([0xB2, 0x80, 0x01], .sbca (.mem (.extended 0x8001))),
    ([0xC2, 0x5A], .sbcb (.imm 0x5A)),
    ([0xD2, 0x80], .sbcb (.mem (.direct 0x80))),
    ([0xE2, 0xDB], .sbcb (.mem (.indexed (.accD .u true)))),
    ([0xF2, 0x80, 0x01], .sbcb (.mem (.extended 0x8001))),
    ([0x80, 0x5A], .suba (.imm 0x5A)),
    ([0x90, 0x80], .suba (.mem (.direct 0x80))),
    ([0xA0, 0x3F], .suba (.mem (.indexed (.offset5 .y 31)))),
    ([0xB0, 0x80, 0x01], .suba (.mem (.extended 0x8001))),
    ([0xC0, 0x5A], .subb (.imm 0x5A)),
    ([0xD0, 0x80], .subb (.mem (.direct 0x80))),
    ([0xE0, 0xC0], .subb (.mem (.indexed (.postInc1 .u)))),
    ([0xF0, 0x80, 0x01], .subb (.mem (.extended 0x8001)))] = true := by decide

/-- Every row of these instructions, written out from spec/95_test_vectors.md 1.1 and the operand bytes of R64 to R84. -/
theorem test_decode_accumulator_logic : decodesAll [
    ([0x84, 0x5A], .anda (.imm 0x5A)),
    ([0x94, 0x80], .anda (.mem (.direct 0x80))),
    ([0xA4, 0xB1], .anda (.mem (.indexed (.postInc2 .y true)))),
    ([0xB4, 0x80, 0x01], .anda (.mem (.extended 0x8001))),
    ([0xC4, 0x5A], .andb (.imm 0x5A)),
    ([0xD4, 0x80], .andb (.mem (.direct 0x80))),
    ([0xE4, 0x82], .andb (.mem (.indexed (.preDec1 .x)))),
    ([0xF4, 0x80, 0x01], .andb (.mem (.extended 0x8001))),
    ([0x85, 0x5A], .bita (.imm 0x5A)),
    ([0x95, 0x80], .bita (.mem (.direct 0x80))),
    ([0xA5, 0x94], .bita (.mem (.indexed (.noOffset .x true)))),
    ([0xB5, 0x80, 0x01], .bita (.mem (.extended 0x8001))),
    ([0xC5, 0x5A], .bitb (.imm 0x5A)),
    ([0xD5, 0x80], .bitb (.mem (.direct 0x80))),
    ([0xE5, 0x85], .bitb (.mem (.indexed (.accB .x false)))),
    ([0xF5, 0x80, 0x01], .bitb (.mem (.extended 0x8001))),
    ([0x88, 0x5A], .eora (.imm 0x5A)),
    ([0x98, 0x80], .eora (.mem (.direct 0x80))),
    ([0xA8, 0xFC, 0x10], .eora (.mem (.indexed (.pcr8 .s 0x10 true)))),
    ([0xB8, 0x80, 0x01], .eora (.mem (.extended 0x8001))),
    ([0xC8, 0x5A], .eorb (.imm 0x5A)),
    ([0xD8, 0x80], .eorb (.mem (.direct 0x80))),
    ([0xE8, 0x8D, 0x10, 0x00], .eorb (.mem (.indexed (.pcr16 .x 0x1000 false)))),
    ([0xF8, 0x80, 0x01], .eorb (.mem (.extended 0x8001))),
    ([0x8A, 0x5A], .ora (.imm 0x5A)),
    ([0x9A, 0x80], .ora (.mem (.direct 0x80))),
    ([0xAA, 0x88, 0x7F], .ora (.mem (.indexed (.offset8 .x 0x7F false)))),
    ([0xBA, 0x80, 0x01], .ora (.mem (.extended 0x8001))),
    ([0xCA, 0x5A], .orb (.imm 0x5A)),
    ([0xDA, 0x80], .orb (.mem (.direct 0x80))),
    ([0xEA, 0xF8, 0x04], .orb (.mem (.indexed (.offset8 .s 4 true)))),
    ([0xFA, 0x80, 0x01], .orb (.mem (.extended 0x8001)))] = true := by decide

/-- Every row of these instructions, written out from spec/95_test_vectors.md 1.1 and the operand bytes of R64 to R84. -/
theorem test_decode_word_arithmetic : decodesAll [
    ([0xC3, 0x12, 0x34], .addd (.imm 0x1234)),
    ([0xD3, 0x80], .addd (.mem (.direct 0x80))),
    ([0xE3, 0xE1], .addd (.mem (.indexed (.postInc2 .s false)))),
    ([0xF3, 0x80, 0x01], .addd (.mem (.extended 0x8001))),
    ([0x10, 0x83, 0x12, 0x34], .cmpd (.imm 0x1234)),
    ([0x10, 0x93, 0x80], .cmpd (.mem (.direct 0x80))),
    ([0x10, 0xA3, 0x88, 0x7F], .cmpd (.mem (.indexed (.offset8 .x 0x7F false)))),
    ([0x10, 0xB3, 0x80, 0x01], .cmpd (.mem (.extended 0x8001))),
    ([0x11, 0x8C, 0x12, 0x34], .cmps (.imm 0x1234)),
    ([0x11, 0x9C, 0x80], .cmps (.mem (.direct 0x80))),
    ([0x11, 0xAC, 0xF8, 0x04], .cmps (.mem (.indexed (.offset8 .s 4 true)))),
    ([0x11, 0xBC, 0x80, 0x01], .cmps (.mem (.extended 0x8001))),
    ([0x11, 0x83, 0x12, 0x34], .cmpu (.imm 0x1234)),
    ([0x11, 0x93, 0x80], .cmpu (.mem (.direct 0x80))),
    ([0x11, 0xA3, 0xA9, 0x12, 0x34], .cmpu (.mem (.indexed (.offset16 .y 0x1234 false)))),
    ([0x11, 0xB3, 0x80, 0x01], .cmpu (.mem (.extended 0x8001))),
    ([0x8C, 0x12, 0x34], .cmpx (.imm 0x1234)),
    ([0x9C, 0x80], .cmpx (.mem (.direct 0x80))),
    ([0xAC, 0xD9, 0x80, 0x00], .cmpx (.mem (.indexed (.offset16 .u 0x8000 true)))),
    ([0xBC, 0x80, 0x01], .cmpx (.mem (.extended 0x8001))),
    ([0x10, 0x8C, 0x12, 0x34], .cmpy (.imm 0x1234)),
    ([0x10, 0x9C, 0x80], .cmpy (.mem (.direct 0x80))),
    ([0x10, 0xAC, 0x8B], .cmpy (.mem (.indexed (.accD .x false)))),
    ([0x10, 0xBC, 0x80, 0x01], .cmpy (.mem (.extended 0x8001))),
    ([0x83, 0x12, 0x34], .subd (.imm 0x1234)),
    ([0x93, 0x80], .subd (.mem (.direct 0x80))),
    ([0xA3, 0xE1], .subd (.mem (.indexed (.postInc2 .s false)))),
    ([0xB3, 0x80, 0x01], .subd (.mem (.extended 0x8001)))] = true := by decide

/-- Every row of these instructions, written out from spec/95_test_vectors.md 1.1 and the operand bytes of R64 to R84. -/
theorem test_decode_loads : decodesAll [
    ([0x86, 0x5A], .lda (.imm 0x5A)),
    ([0x96, 0x80], .lda (.mem (.direct 0x80))),
    ([0xA6, 0x05], .lda (.mem (.indexed (.offset5 .x 5)))),
    ([0xB6, 0x80, 0x01], .lda (.mem (.extended 0x8001))),
    ([0xC6, 0x5A], .ldb (.imm 0x5A)),
    ([0xD6, 0x80], .ldb (.mem (.direct 0x80))),
    ([0xE6, 0x3F], .ldb (.mem (.indexed (.offset5 .y 31)))),
    ([0xF6, 0x80, 0x01], .ldb (.mem (.extended 0x8001))),
    ([0xCC, 0x12, 0x34], .ldd (.imm 0x1234)),
    ([0xDC, 0x80], .ldd (.mem (.direct 0x80))),
    ([0xEC, 0xC0], .ldd (.mem (.indexed (.postInc1 .u)))),
    ([0xFC, 0x80, 0x01], .ldd (.mem (.extended 0x8001))),
    ([0x10, 0xCE, 0x12, 0x34], .lds (.imm 0x1234)),
    ([0x10, 0xDE, 0x80], .lds (.mem (.direct 0x80))),
    ([0x10, 0xEE, 0xE1], .lds (.mem (.indexed (.postInc2 .s false)))),
    ([0x10, 0xFE, 0x80, 0x01], .lds (.mem (.extended 0x8001))),
    ([0xCE, 0x12, 0x34], .ldu (.imm 0x1234)),
    ([0xDE, 0x80], .ldu (.mem (.direct 0x80))),
    ([0xEE, 0xB1], .ldu (.mem (.indexed (.postInc2 .y true)))),
    ([0xFE, 0x80, 0x01], .ldu (.mem (.extended 0x8001))),
    ([0x8E, 0x12, 0x34], .ldx (.imm 0x1234)),
    ([0x9E, 0x80], .ldx (.mem (.direct 0x80))),
    ([0xAE, 0x82], .ldx (.mem (.indexed (.preDec1 .x)))),
    ([0xBE, 0x80, 0x01], .ldx (.mem (.extended 0x8001))),
    ([0x10, 0x8E, 0x12, 0x34], .ldy (.imm 0x1234)),
    ([0x10, 0x9E, 0x80], .ldy (.mem (.direct 0x80))),
    ([0x10, 0xAE, 0xA3], .ldy (.mem (.indexed (.preDec2 .y false)))),
    ([0x10, 0xBE, 0x80, 0x01], .ldy (.mem (.extended 0x8001)))] = true := by decide

/-- Every row of these instructions, written out from spec/95_test_vectors.md 1.1 and the operand bytes of R64 to R84. -/
theorem test_decode_stores : decodesAll [
    ([0x97, 0x80], .sta (.direct 0x80)),
    ([0xA7, 0x8C, 0xFD], .sta (.indexed (.pcr8 .x 0xFD false))),
    ([0xB7, 0x80, 0x01], .sta (.extended 0x8001)),
    ([0xD7, 0x80], .stb (.direct 0x80)),
    ([0xE7, 0xFC, 0x10], .stb (.indexed (.pcr8 .s 0x10 true))),
    ([0xF7, 0x80, 0x01], .stb (.extended 0x8001)),
    ([0xDD, 0x80], .std (.direct 0x80)),
    ([0xED, 0x8D, 0x10, 0x00], .std (.indexed (.pcr16 .x 0x1000 false))),
    ([0xFD, 0x80, 0x01], .std (.extended 0x8001)),
    ([0x10, 0xDF, 0x80], .sts (.direct 0x80)),
    ([0x10, 0xEF, 0xBD, 0x12, 0x34], .sts (.indexed (.pcr16 .y 0x1234 true))),
    ([0x10, 0xFF, 0x80, 0x01], .sts (.extended 0x8001)),
    ([0xDF, 0x80], .stu (.direct 0x80)),
    ([0xEF, 0x9F, 0x20, 0x00], .stu (.indexed (.extIndirect 0x2000))),
    ([0xFF, 0x80, 0x01], .stu (.extended 0x8001)),
    ([0x9F, 0x80], .stx (.direct 0x80)),
    ([0xAF, 0x84], .stx (.indexed (.noOffset .x false))),
    ([0xBF, 0x80, 0x01], .stx (.extended 0x8001)),
    ([0x10, 0x9F, 0x80], .sty (.direct 0x80)),
    ([0x10, 0xAF, 0x05], .sty (.indexed (.offset5 .x 5))),
    ([0x10, 0xBF, 0x80, 0x01], .sty (.extended 0x8001))] = true := by decide

/-- Every row of these instructions, written out from spec/95_test_vectors.md 1.1 and the operand bytes of R64 to R84. -/
theorem test_decode_read_modify_write : decodesAll [
    ([0x08, 0x80], .asl (.direct 0x80)),
    ([0x68, 0xA3], .asl (.indexed (.preDec2 .y false))),
    ([0x78, 0x80, 0x01], .asl (.extended 0x8001)),
    ([0x07, 0x80], .asr (.direct 0x80)),
    ([0x67, 0xD3], .asr (.indexed (.preDec2 .u true))),
    ([0x77, 0x80, 0x01], .asr (.extended 0x8001)),
    ([0x0F, 0x80], .clr (.direct 0x80)),
    ([0x6F, 0xF5], .clr (.indexed (.accB .s true))),
    ([0x7F, 0x80, 0x01], .clr (.extended 0x8001)),
    ([0x03, 0x80], .com (.direct 0x80)),
    ([0x63, 0xDB], .com (.indexed (.accD .u true))),
    ([0x73, 0x80, 0x01], .com (.extended 0x8001)),
    ([0x0A, 0x80], .dec (.direct 0x80)),
    ([0x6A, 0x8C, 0xFD], .dec (.indexed (.pcr8 .x 0xFD false))),
    ([0x7A, 0x80, 0x01], .dec (.extended 0x8001)),
    ([0x0C, 0x80], .inc (.direct 0x80)),
    ([0x6C, 0xBD, 0x12, 0x34], .inc (.indexed (.pcr16 .y 0x1234 true))),
    ([0x7C, 0x80, 0x01], .inc (.extended 0x8001)),
    ([0x04, 0x80], .lsr (.direct 0x80)),
    ([0x64, 0xA6], .lsr (.indexed (.accA .y false))),
    ([0x74, 0x80, 0x01], .lsr (.extended 0x8001)),
    ([0x00, 0x80], .neg (.direct 0x80)),
    ([0x60, 0x96], .neg (.indexed (.accA .x true))),
    ([0x70, 0x80, 0x01], .neg (.extended 0x8001)),
    ([0x09, 0x80], .rol (.direct 0x80)),
    ([0x69, 0xA9, 0x12, 0x34], .rol (.indexed (.offset16 .y 0x1234 false))),
    ([0x79, 0x80, 0x01], .rol (.extended 0x8001)),
    ([0x06, 0x80], .ror (.direct 0x80)),
    ([0x66, 0xD9, 0x80, 0x00], .ror (.indexed (.offset16 .u 0x8000 true))),
    ([0x76, 0x80, 0x01], .ror (.extended 0x8001)),
    ([0x0D, 0x80], .tst (.direct 0x80)),
    ([0x6D, 0xB1], .tst (.indexed (.postInc2 .y true))),
    ([0x7D, 0x80, 0x01], .tst (.extended 0x8001))] = true := by decide

/-- Every remaining row of spec/95_test_vectors.md 1.1: inherent forms, masks, register pairs and lists, LEA, JMP, JSR. -/
theorem test_decode_rest : decodesAll [
    ([0x3A], .abx),
    ([0x1C, 0xEF], .andcc 0xEF),
    ([0x48], .asla),
    ([0x58], .aslb),
    ([0x47], .asra),
    ([0x57], .asrb),
    ([0x4F], .clra),
    ([0x5F], .clrb),
    ([0x43], .coma),
    ([0x53], .comb),
    ([0x3C, 0xEF], .cwai 0xEF),
    ([0x19], .daa),
    ([0x4A], .deca),
    ([0x5A], .decb),
    ([0x1E, 0x89], .exg (.r8 .a) (.r8 .b)),
    ([0x4C], .inca),
    ([0x5C], .incb),
    ([0x0E, 0x80], .jmp (.direct 0x80)),
    ([0x6E, 0x9F, 0x20, 0x00], .jmp (.indexed (.extIndirect 0x2000))),
    ([0x7E, 0x80, 0x01], .jmp (.extended 0x8001)),
    ([0x9D, 0x80], .jsr (.direct 0x80)),
    ([0xAD, 0x84], .jsr (.indexed (.noOffset .x false))),
    ([0xBD, 0x80, 0x01], .jsr (.extended 0x8001)),
    ([0x32, 0xD3], .leas (.preDec2 .u true)),
    ([0x33, 0x94], .leau (.noOffset .x true)),
    ([0x30, 0x85], .leax (.accB .x false)),
    ([0x31, 0xF5], .leay (.accB .s true)),
    ([0x44], .lsra),
    ([0x54], .lsrb),
    ([0x3D], .mul),
    ([0x40], .nega),
    ([0x50], .negb),
    ([0x12], .nop),
    ([0x1A, 0xEF], .orcc 0xEF),
    ([0x34, 0xA5], .pshs { pc := true, other := false, y := true, x := false, dp := false, b := true, a := false, cc := true }),
    ([0x36, 0xA5], .pshu { pc := true, other := false, y := true, x := false, dp := false, b := true, a := false, cc := true }),
    ([0x35, 0xA5], .puls { pc := true, other := false, y := true, x := false, dp := false, b := true, a := false, cc := true }),
    ([0x37, 0xA5], .pulu { pc := true, other := false, y := true, x := false, dp := false, b := true, a := false, cc := true }),
    ([0x49], .rola),
    ([0x59], .rolb),
    ([0x46], .rora),
    ([0x56], .rorb),
    ([0x3B], .rti),
    ([0x39], .rts),
    ([0x1D], .sex),
    ([0x3F], .swi),
    ([0x10, 0x3F], .swi2),
    ([0x11, 0x3F], .swi3),
    ([0x13], .sync),
    ([0x1F, 0x89], .tfr (.r8 .a) (.r8 .b)),
    ([0x4D], .tsta),
    ([0x5D], .tstb)] = true := by decide

/-- Every branch, from spec/95_test_vectors.md 1.2 and R82. -/
theorem test_decode_branches : decodesAll [
    ([0x24, 0xFE], .bcc 0xFE),
    ([0x10, 0x24, 0xF0, 0x02], .lbcc 0xF002),
    ([0x25, 0xFE], .bcs 0xFE),
    ([0x10, 0x25, 0xF0, 0x02], .lbcs 0xF002),
    ([0x27, 0xFE], .beq 0xFE),
    ([0x10, 0x27, 0xF0, 0x02], .lbeq 0xF002),
    ([0x2C, 0xFE], .bge 0xFE),
    ([0x10, 0x2C, 0xF0, 0x02], .lbge 0xF002),
    ([0x2E, 0xFE], .bgt 0xFE),
    ([0x10, 0x2E, 0xF0, 0x02], .lbgt 0xF002),
    ([0x22, 0xFE], .bhi 0xFE),
    ([0x10, 0x22, 0xF0, 0x02], .lbhi 0xF002),
    ([0x2F, 0xFE], .ble 0xFE),
    ([0x10, 0x2F, 0xF0, 0x02], .lble 0xF002),
    ([0x23, 0xFE], .bls 0xFE),
    ([0x10, 0x23, 0xF0, 0x02], .lbls 0xF002),
    ([0x2D, 0xFE], .blt 0xFE),
    ([0x10, 0x2D, 0xF0, 0x02], .lblt 0xF002),
    ([0x2B, 0xFE], .bmi 0xFE),
    ([0x10, 0x2B, 0xF0, 0x02], .lbmi 0xF002),
    ([0x26, 0xFE], .bne 0xFE),
    ([0x10, 0x26, 0xF0, 0x02], .lbne 0xF002),
    ([0x2A, 0xFE], .bpl 0xFE),
    ([0x10, 0x2A, 0xF0, 0x02], .lbpl 0xF002),
    ([0x20, 0xFE], .bra 0xFE),
    ([0x16, 0xF0, 0x02], .lbra 0xF002),
    ([0x21, 0xFE], .brn 0xFE),
    ([0x10, 0x21, 0xF0, 0x02], .lbrn 0xF002),
    ([0x8D, 0xFE], .bsr 0xFE),
    ([0x17, 0xF0, 0x02], .lbsr 0xF002),
    ([0x28, 0xFE], .bvc 0xFE),
    ([0x10, 0x28, 0xF0, 0x02], .lbvc 0xF002),
    ([0x29, 0xFE], .bvs 0xFE),
    ([0x10, 0x29, 0xF0, 0x02], .lbvs 0xF002)] = true := by decide

/-- Every listed byte sequence is undefined (V120 to V124, V140 to V142, V253 to V260). -/
theorem test_decode_undefined :
    ([[0xA6, 0x87], [0xA6, 0x90], [0xA6, 0x8F], [0xA6, 0xBF, 0x20, 0x00], [0x30, 0x8A], [0x1F, 0x81], [0x1F, 0x68],
      [0x1E, 0x8C], [0x01, 0x00], [0x14], [0x87, 0x00], [0xCD, 0x00, 0x00], [0x10, 0x00], [0x11, 0x8E, 0x00, 0x00],
      [0x10, 0x10, 0x8E, 0x00, 0x00], [0x11, 0x10, 0x3F]] : List (List Byte)).all (fun bs =>
        match decode bs with
        | .ok _ => false
        | .error .truncated => false
        | .error (.undefined _) => true) = true := by decide

/-- The table's number of a one-byte opcode and of a two-byte one, page byte high; the host's order too (log 13). -/
theorem test_decodeTableWord :
    decodeTableWord 8 0x3A = some .abx ∧ decodeTableWord 16 0x108E = some (.ldy (.imm 0)) ∧
      decodeTableWord 16 0x8E10 = some (.ldy (.imm 0)) ∧ decodeTableWord 16 0x113F = some .swi3 ∧
      decodeTableWord 8 0x01 = none := by decide

/-! ### Single steps -/

/-- Memory holding the given runs of bytes. -/
def cells (ps : List (Nat × List Byte)) : Memory :=
  ps.foldl (fun m p => (p.2.foldl (fun (q : Memory × Nat) b => (Memory.write q.1 (q.2 % 65536) b, q.2 + 1)) (m, p.1)).1) []

/-- A machine about to run `code` at $1000, every register 0, with `data` in memory beside it. -/
def start (code : List Byte) (data : List (Nat × List Byte)) : State :=
  { State.reset with cc := 0, pc := 0x1000, mem := cells ((0x1000, code) :: data) }

/-- The outcome is this next state. -/
def gives (o : Host.Outcome State Fault Refusal) (t : State) : Bool :=
  match o with
  | .next s => decide (s = t)
  | .fault _ => false
  | .refused _ => false

/-- The outcome is this next state, whatever its CC: where the instruction leaves H undefined. -/
def givesButCC (o : Host.Outcome State Fault Refusal) (t : State) : Bool :=
  match o with
  | .next s => decide ({ s with cc := 0 } = { t with cc := 0 })
  | .fault _ => false
  | .refused _ => false

/-- The outcome is the fault of an undefined encoding. -/
def undefinedAt (o : Host.Outcome State Fault Refusal) : Bool :=
  match o with
  | .next _ => false
  | .fault (.undefined _) => true
  | .fault (.absentAddress _) => false
  | .refused _ => false

theorem test_withFetchWord_nop :
    gives (step (State.reset.withFetchWord 8 0x12)) { State.reset.withFetchWord 8 0x12 with pc := 1 } = true := by decide

theorem test_withFetchWord_swi3 :
    (match step (State.reset.withFetchWord 16 0x113F) with
      | .next t => decide (t.s = 0xFFF4)
      | .fault _ => false
      | .refused _ => false) = true := by decide

/-! The vectors of spec/95_test_vectors.md, by number. -/

theorem test_v1_adda :
    gives (step { start [0x8B, 0x01] [] with a := 0xFF })
      { start [0x8B, 0x01] [] with a := 0x00, cc := 0x25, pc := 0x1002 } = true := by decide
theorem test_v6_adca :
    gives (step { start [0x89, 0x00] [] with a := 0xFF, cc := 0x01 })
      { start [0x89, 0x00] [] with a := 0x00, cc := 0x25, pc := 0x1002 } = true := by decide
theorem test_v4_addb :
    gives (step { start [0xCB, 0x0F] [] with b := 0x01, cc := 0xDF })
      { start [0xCB, 0x0F] [] with b := 0x10, cc := 0xF0, pc := 0x1002 } = true := by decide
theorem test_v8_adcb :
    gives (step { start [0xF9, 0x20, 0x00] [(0x2000, [0x07])] with b := 0x08, cc := 0x01 })
      { start [0xF9, 0x20, 0x00] [(0x2000, [0x07])] with b := 0x10, cc := 0x20, pc := 0x1003 } = true := by decide
theorem test_v10_suba :
    givesButCC (step { start [0x80, 0x01] [] with a := 0x00 })
      { start [0x80, 0x01] [] with a := 0xFF, pc := 0x1002, draws := 1 } = true := by decide
theorem test_v12_subb :
    givesButCC (step { start [0xC0, 0x10] [] with b := 0x10, cc := 0x2B })
      { start [0xC0, 0x10] [] with b := 0x00, pc := 0x1002, draws := 1 } = true := by decide
theorem test_v14_sbca :
    givesButCC (step { start [0x82, 0x00] [] with a := 0x00, cc := 0x01 })
      { start [0x82, 0x00] [] with a := 0xFF, pc := 0x1002, draws := 1 } = true := by decide
theorem test_v15_sbcb :
    givesButCC (step { start [0xC2, 0xFF] [] with b := 0x00, cc := 0x01 })
      { start [0xC2, 0xFF] [] with b := 0x00, pc := 0x1002, draws := 1 } = true := by decide
theorem test_v17_cmpa :
    givesButCC (step { start [0x81, 0x80] [] with a := 0x7F })
      { start [0x81, 0x80] [] with a := 0x7F, pc := 0x1002, draws := 1 } = true := by decide
theorem test_v18_cmpb :
    givesButCC (step { start [0xF1, 0x20, 0x00] [(0x2000, [0x42])] with b := 0x42 })
      { start [0xF1, 0x20, 0x00] [(0x2000, [0x42])] with b := 0x42, pc := 0x1003, draws := 1 } = true := by decide
theorem test_v20_nega :
    givesButCC (step { start [0x40] [] with a := 0x80 })
      { start [0x40] [] with a := 0x80, pc := 0x1001, draws := 1 } = true := by decide
theorem test_v22_negb :
    givesButCC (step { start [0x50] [] with b := 0x01 })
      { start [0x50] [] with b := 0xFF, pc := 0x1001, draws := 1 } = true := by decide
theorem test_v23_neg :
    givesButCC (step (start [0x70, 0x20, 0x00] [(0x2000, [0x7F])]))
      { start [0x70, 0x20, 0x00] [(0x2000, [0x7F]), (0x2000, [0x81])] with pc := 0x1003, draws := 1 } = true := by decide
theorem test_v24_addd :
    gives (step { start [0xC3, 0x00, 0x01] [] with a := 0xFF, b := 0xFF })
      { start [0xC3, 0x00, 0x01] [] with a := 0x00, b := 0x00, cc := 0x05, pc := 0x1003 } = true := by decide
theorem test_v27_subd :
    gives (step { start [0x83, 0x00, 0x01] [] with a := 0x00, b := 0x00 })
      { start [0x83, 0x00, 0x01] [] with a := 0xFF, b := 0xFF, cc := 0x09, pc := 0x1003 } = true := by decide
theorem test_v30_cmpd :
    gives (step { start [0x10, 0x83, 0x80, 0x00] [] with a := 0x7F, b := 0xFF })
      { start [0x10, 0x83, 0x80, 0x00] [] with a := 0x7F, b := 0xFF, cc := 0x0B, pc := 0x1004 } = true := by decide
theorem test_v31_cmpx :
    gives (step { start [0x8C, 0x12, 0x34] [] with x := 0x1234, cc := 0x0B })
      { start [0x8C, 0x12, 0x34] [] with x := 0x1234, cc := 0x04, pc := 0x1003 } = true := by decide
theorem test_v32_cmpy :
    gives (step { start [0x10, 0xBC, 0x20, 0x00] [(0x2000, [0x00, 0x02])] with y := 0x0001 })
      { start [0x10, 0xBC, 0x20, 0x00] [(0x2000, [0x00, 0x02])] with y := 0x0001, cc := 0x09, pc := 0x1004 } = true := by decide
theorem test_v33_cmpu :
    gives (step { start [0x11, 0xA3, 0x84] [(0x2000, [0x00, 0x01])] with u := 0xFFFF, x := 0x2000 })
      { start [0x11, 0xA3, 0x84] [(0x2000, [0x00, 0x01])] with u := 0xFFFF, x := 0x2000, cc := 0x08, pc := 0x1003 } = true := by decide
theorem test_v34_cmps :
    gives (step { start [0x11, 0x9C, 0x80] [(0x2080, [0x7F, 0xFF])] with s := 0x8000, dp := 0x20 })
      { start [0x11, 0x9C, 0x80] [(0x2080, [0x7F, 0xFF])] with s := 0x8000, dp := 0x20, cc := 0x02, pc := 0x1003 } = true := by decide
theorem test_v35_cmpx :
    gives (step { start [0xBC, 0xFF, 0xFF] [(0xFFFF, [0xAB]), (0x0000, [0x12])] with x := 0xAB12 })
      { start [0xBC, 0xFF, 0xFF] [(0xFFFF, [0xAB]), (0x0000, [0x12])] with x := 0xAB12, cc := 0x04, pc := 0x1003 } = true := by decide
theorem test_v36_anda :
    gives (step { start [0x84, 0x0F] [] with a := 0xF0, cc := 0x0B })
      { start [0x84, 0x0F] [] with a := 0x00, cc := 0x05, pc := 0x1002 } = true := by decide
theorem test_v37_andb :
    gives (step { start [0xC4, 0x80] [] with b := 0xFF, cc := 0x03 })
      { start [0xC4, 0x80] [] with b := 0x80, cc := 0x09, pc := 0x1002 } = true := by decide
theorem test_v38_ora :
    gives (step { start [0x8A, 0x80] [] with a := 0x01, cc := 0x07 })
      { start [0x8A, 0x80] [] with a := 0x81, cc := 0x09, pc := 0x1002 } = true := by decide
theorem test_v39_orb :
    gives (step { start [0xFA, 0x20, 0x00] [(0x2000, [0x00])] with b := 0x00 })
      { start [0xFA, 0x20, 0x00] [(0x2000, [0x00])] with b := 0x00, cc := 0x04, pc := 0x1003 } = true := by decide
theorem test_v40_eora :
    gives (step { start [0x88, 0xFF] [] with a := 0xAA, cc := 0x01 })
      { start [0x88, 0xFF] [] with a := 0x55, cc := 0x01, pc := 0x1002 } = true := by decide
theorem test_v41_eorb :
    gives (step { start [0xE8, 0xA4] [(0x2000, [0x55])] with b := 0x55, y := 0x2000 })
      { start [0xE8, 0xA4] [(0x2000, [0x55])] with b := 0x00, y := 0x2000, cc := 0x04, pc := 0x1002 } = true := by decide
theorem test_v42_bita :
    gives (step { start [0x85, 0x01] [] with a := 0xFE, cc := 0x03 })
      { start [0x85, 0x01] [] with a := 0xFE, cc := 0x05, pc := 0x1002 } = true := by decide
theorem test_v43_bitb :
    gives (step { start [0xC5, 0x80] [] with b := 0x80 })
      { start [0xC5, 0x80] [] with b := 0x80, cc := 0x08, pc := 0x1002 } = true := by decide
theorem test_v44_coma :
    gives (step { start [0x43] [] with a := 0x00 })
      { start [0x43] [] with a := 0xFF, cc := 0x09, pc := 0x1001 } = true := by decide
theorem test_v45_comb :
    gives (step { start [0x53] [] with b := 0xFF, cc := 0x02 })
      { start [0x53] [] with b := 0x00, cc := 0x05, pc := 0x1001 } = true := by decide
theorem test_v46_com :
    gives (step { start [0x03, 0x00] [(0x2000, [0x0F])] with dp := 0x20 })
      { start [0x03, 0x00] [(0x2000, [0x0F]), (0x2000, [0xF0])] with dp := 0x20, cc := 0x09, pc := 0x1002 } = true := by decide
theorem test_v47_asla :
    givesButCC (step { start [0x48] [] with a := 0x80 })
      { start [0x48] [] with a := 0x00, pc := 0x1001, draws := 1 } = true := by decide
theorem test_v49_aslb :
    givesButCC (step { start [0x58] [] with b := 0xC0 })
      { start [0x58] [] with b := 0x80, pc := 0x1001, draws := 1 } = true := by decide
theorem test_v50_lsl :
    givesButCC (step (start [0x78, 0x20, 0x00] [(0x2000, [0x55])]))
      { start [0x78, 0x20, 0x00] [(0x2000, [0x55]), (0x2000, [0xAA])] with pc := 0x1003, draws := 1 } = true := by decide
theorem test_v51_asra :
    givesButCC (step { start [0x47] [] with a := 0x81, cc := 0x02 })
      { start [0x47] [] with a := 0xC0, pc := 0x1001, draws := 1 } = true := by decide
theorem test_v52_asrb :
    givesButCC (step { start [0x57] [] with b := 0x01 })
      { start [0x57] [] with b := 0x00, pc := 0x1001, draws := 1 } = true := by decide
theorem test_v53_asr :
    givesButCC (step { start [0x67, 0x84] [(0x2000, [0x80])] with x := 0x2000 })
      { start [0x67, 0x84] [(0x2000, [0x80]), (0x2000, [0xC0])] with x := 0x2000, pc := 0x1002, draws := 1 } = true := by decide
theorem test_v54_lsra :
    gives (step { start [0x44] [] with a := 0x01, cc := 0x0A })
      { start [0x44] [] with a := 0x00, cc := 0x07, pc := 0x1001 } = true := by decide
theorem test_v55_lsrb :
    gives (step { start [0x54] [] with b := 0x80, cc := 0x08 })
      { start [0x54] [] with b := 0x40, cc := 0x00, pc := 0x1001 } = true := by decide
theorem test_v56_lsr :
    gives (step { start [0x04, 0x10] [(0x2010, [0xFF])] with dp := 0x20 })
      { start [0x04, 0x10] [(0x2010, [0xFF]), (0x2010, [0x7F])] with dp := 0x20, cc := 0x01, pc := 0x1002 } = true := by decide
theorem test_v57_rola :
    gives (step { start [0x49] [] with a := 0x80, cc := 0x01 })
      { start [0x49] [] with a := 0x01, cc := 0x03, pc := 0x1001 } = true := by decide
theorem test_v58_rolb :
    gives (step { start [0x59] [] with b := 0x40, cc := 0x00 })
      { start [0x59] [] with b := 0x80, cc := 0x0A, pc := 0x1001 } = true := by decide
theorem test_v59_rol :
    gives (step { start [0x79, 0x20, 0x00] [(0x2000, [0x00])] with cc := 0x01 })
      { start [0x79, 0x20, 0x00] [(0x2000, [0x00]), (0x2000, [0x01])] with cc := 0x00, pc := 0x1003 } = true := by decide
theorem test_v60_rora :
    gives (step { start [0x46] [] with a := 0x01, cc := 0x01 })
      { start [0x46] [] with a := 0x80, cc := 0x09, pc := 0x1001 } = true := by decide
theorem test_v61_rorb :
    gives (step { start [0x56] [] with b := 0x00, cc := 0x02 })
      { start [0x56] [] with b := 0x00, cc := 0x06, pc := 0x1001 } = true := by decide
theorem test_v62_ror :
    gives (step { start [0x66, 0x82] [(0x2000, [0x03])] with x := 0x2001, cc := 0x00 })
      { start [0x66, 0x82] [(0x2000, [0x03]), (0x2000, [0x01])] with x := 0x2000, cc := 0x01, pc := 0x1002 } = true := by decide
theorem test_v63_inca :
    gives (step { start [0x4C] [] with a := 0x7F })
      { start [0x4C] [] with a := 0x80, cc := 0x0A, pc := 0x1001 } = true := by decide
theorem test_v64_incb :
    gives (step { start [0x5C] [] with b := 0xFF, cc := 0x01 })
      { start [0x5C] [] with b := 0x00, cc := 0x05, pc := 0x1001 } = true := by decide
theorem test_v65_inc :
    gives (step { start [0x7C, 0x20, 0x00] [(0x2000, [0x00])] with cc := 0x0E })
      { start [0x7C, 0x20, 0x00] [(0x2000, [0x00]), (0x2000, [0x01])] with cc := 0x00, pc := 0x1003 } = true := by decide
theorem test_v66_deca :
    gives (step { start [0x4A] [] with a := 0x80 })
      { start [0x4A] [] with a := 0x7F, cc := 0x02, pc := 0x1001 } = true := by decide
theorem test_v67_decb :
    gives (step { start [0x5A] [] with b := 0x00, cc := 0x01 })
      { start [0x5A] [] with b := 0xFF, cc := 0x09, pc := 0x1001 } = true := by decide
theorem test_v68_dec :
    gives (step { start [0x6A, 0x84] [(0x2000, [0x01])] with x := 0x2000 })
      { start [0x6A, 0x84] [(0x2000, [0x01]), (0x2000, [0x00])] with x := 0x2000, cc := 0x04, pc := 0x1002 } = true := by decide
theorem test_v69_clra :
    gives (step { start [0x4F] [] with a := 0x55, cc := 0xFF })
      { start [0x4F] [] with a := 0x00, cc := 0xF4, pc := 0x1001 } = true := by decide
theorem test_v70_clrb :
    gives (step { start [0x5F] [] with b := 0x55, cc := 0x0B })
      { start [0x5F] [] with b := 0x00, cc := 0x04, pc := 0x1001 } = true := by decide
theorem test_v71_clr :
    gives (step { start [0x7F, 0x20, 0x00] [(0x2000, [0xAA])] with cc := 0x09 })
      { start [0x7F, 0x20, 0x00] [(0x2000, [0xAA]), (0x2000, [0x00])] with cc := 0x04, pc := 0x1003 } = true := by decide
theorem test_v72_tsta :
    gives (step { start [0x4D] [] with a := 0x80, cc := 0x03 })
      { start [0x4D] [] with a := 0x80, cc := 0x09, pc := 0x1001 } = true := by decide
theorem test_v73_tstb :
    gives (step { start [0x5D] [] with b := 0x00, cc := 0x0B })
      { start [0x5D] [] with b := 0x00, cc := 0x05, pc := 0x1001 } = true := by decide
theorem test_v74_tst :
    gives (step { start [0x7D, 0x20, 0x00] [(0x2000, [0x7F])] with cc := 0x0E })
      { start [0x7D, 0x20, 0x00] [(0x2000, [0x7F])] with cc := 0x00, pc := 0x1003 } = true := by decide
theorem test_v76_lda :
    gives (step { start [0x96, 0x10] [(0x2010, [0x80]), (0x0010, [0x11])] with dp := 0x20 })
      { start [0x96, 0x10] [(0x2010, [0x80]), (0x0010, [0x11])] with dp := 0x20, a := 0x80, cc := 0x08, pc := 0x1002 } = true := by decide
theorem test_v77_ldb :
    gives (step { start [0xF6, 0x12, 0x34] [(0x1234, [0x7F])] with cc := 0x02 })
      { start [0xF6, 0x12, 0x34] [(0x1234, [0x7F])] with cc := 0x00, b := 0x7F, pc := 0x1003 } = true := by decide
theorem test_v79_ldd :
    gives (step (start [0xCC, 0x80, 0x00] []))
      { start [0xCC, 0x80, 0x00] [] with a := 0x80, b := 0x00, cc := 0x08, pc := 0x1003 } = true := by decide
theorem test_v82_ldy :
    gives (step (start [0x10, 0x8E, 0x12, 0x34] []))
      { start [0x10, 0x8E, 0x12, 0x34] [] with y := 0x1234, cc := 0x00, pc := 0x1004 } = true := by decide
theorem test_v83_ldu :
    gives (step { start [0xDE, 0x20] [(0x3020, [0xAB, 0xCD])] with dp := 0x30 })
      { start [0xDE, 0x20] [(0x3020, [0xAB, 0xCD])] with dp := 0x30, u := 0xABCD, cc := 0x08, pc := 0x1002 } = true := by decide
theorem test_v84_lds :
    gives (step (start [0x10, 0xCE, 0x80, 0x00] []))
      { start [0x10, 0xCE, 0x80, 0x00] [] with s := 0x8000, cc := 0x08, pc := 0x1004, nmiArmed := true } = true := by decide
theorem test_v85_ldx :
    gives (step { start [0xAE, 0x81] [(0x2000, [0x30, 0x00])] with x := 0x2000 })
      { start [0xAE, 0x81] [(0x2000, [0x30, 0x00])] with x := 0x3000, cc := 0x00, pc := 0x1002 } = true := by decide
theorem test_v86_sta :
    gives (step { start [0x97, 0x10] [] with a := 0x80, dp := 0x20, cc := 0x03 })
      { start [0x97, 0x10] [(0x2010, [0x80])] with a := 0x80, dp := 0x20, cc := 0x09, pc := 0x1002 } = true := by decide
theorem test_v87_stb :
    gives (step { start [0xF7, 0x20, 0x00] [] with b := 0x00, cc := 0x0A })
      { start [0xF7, 0x20, 0x00] [(0x2000, [0x00])] with b := 0x00, cc := 0x04, pc := 0x1003 } = true := by decide
theorem test_v88_std :
    gives (step { start [0xED, 0x81] [] with a := 0x12, b := 0x34, x := 0x2000 })
      { start [0xED, 0x81] [(0x2000, [0x12]), (0x2001, [0x34])] with a := 0x12, b := 0x34, x := 0x2002, cc := 0x00, pc := 0x1002 } = true := by decide
theorem test_v90_sty :
    gives (step { start [0x10, 0xBF, 0x20, 0x00] [] with y := 0x8001 })
      { start [0x10, 0xBF, 0x20, 0x00] [(0x2000, [0x80]), (0x2001, [0x01])] with y := 0x8001, cc := 0x08, pc := 0x1004 } = true := by decide
theorem test_v91_stu :
    gives (step { start [0xEF, 0xA3] [] with u := 0x0000, y := 0x2002, cc := 0x08 })
      { start [0xEF, 0xA3] [(0x2000, [0x00]), (0x2001, [0x00])] with u := 0x0000, y := 0x2000, cc := 0x04, pc := 0x1002 } = true := by decide
theorem test_v92_sts :
    gives (step { start [0x10, 0xDF, 0x00] [] with s := 0x7FFE, dp := 0x20 })
      { start [0x10, 0xDF, 0x00] [(0x2000, [0x7F]), (0x2001, [0xFE])] with s := 0x7FFE, dp := 0x20, cc := 0x00, pc := 0x1003 } = true := by decide
theorem test_v93_std :
    gives (step { start [0xFD, 0xFF, 0xFF] [] with a := 0xA1, b := 0xB2 })
      { start [0xFD, 0xFF, 0xFF] [(0xFFFF, [0xA1]), (0x0000, [0xB2])] with a := 0xA1, b := 0xB2, cc := 0x08, pc := 0x1003 } = true := by decide
theorem test_v97_leay :
    gives (step { start [0x31, 0x84] [] with x := 0x0000, y := 0x1234 })
      { start [0x31, 0x84] [] with x := 0x0000, y := 0x0000, cc := 0x04, pc := 0x1002 } = true := by decide
theorem test_v98_leax :
    gives (step { start [0x30, 0x80] [] with x := 0x2000 })
      { start [0x30, 0x80] [] with x := 0x2000, cc := 0x00, pc := 0x1002 } = true := by decide
theorem test_v103_leau :
    gives (step { start [0x33, 0x85] [] with b := 0x80, x := 0x2000, cc := 0x04 })
      { start [0x33, 0x85] [] with b := 0x80, x := 0x2000, cc := 0x04, u := 0x1F80, pc := 0x1002 } = true := by decide
theorem test_v104_leas :
    gives (step { start [0x32, 0xA6] [] with a := 0x7F, y := 0x2000 })
      { start [0x32, 0xA6] [] with a := 0x7F, y := 0x2000, s := 0x207F, cc := 0x00, pc := 0x1002, nmiArmed := true } = true := by decide
theorem test_v112_leax :
    gives (step (start [0x30, 0xEC, 0x10] []))
      { start [0x30, 0xEC, 0x10] [] with x := 0x1013, cc := 0x00, pc := 0x1003 } = true := by decide
theorem test_v117_lda :
    gives (step { start [0xA6, 0xF8, 0x04] [(0x7FF4, [0x20, 0x00]), (0x2000, [0x99])] with s := 0x7FF0 })
      { start [0xA6, 0xF8, 0x04] [(0x7FF4, [0x20, 0x00]), (0x2000, [0x99])] with s := 0x7FF0, a := 0x99, cc := 0x08, pc := 0x1003 } = true := by decide
theorem test_v128_tfr :
    gives (step { start [0x1F, 0x8A] [] with a := 0xD5 })
      { start [0x1F, 0x8A] [] with a := 0xD5, cc := 0xD5, pc := 0x1002 } = true := by decide
theorem test_v133_tfr :
    gives (step { start [0x1F, 0x14] [] with x := 0x8000 })
      { start [0x1F, 0x14] [] with x := 0x8000, s := 0x8000, pc := 0x1002, nmiArmed := true } = true := by decide
theorem test_v138_exg :
    gives (step { start [0x1E, 0x51] [] with x := 0x4000 })
      { start [0x1E, 0x51] [] with x := 0x1002, pc := 0x4000 } = true := by decide
theorem test_v147_pshs :
    gives (step { start [0x34, 0x06] [] with a := 0x12, b := 0x34, s := 0x0001 })
      { start [0x34, 0x06] [(0x0000, [0x34]), (0xFFFF, [0x12])] with a := 0x12, b := 0x34, s := 0xFFFF, pc := 0x1002 } = true := by decide
theorem test_v148_puls :
    gives (step { start [0x35, 0x03] [(0x7FFE, [0xD5, 0x42])] with s := 0x7FFE })
      { start [0x35, 0x03] [(0x7FFE, [0xD5, 0x42])] with s := 0x8000, cc := 0xD5, a := 0x42, pc := 0x1002 } = true := by decide
theorem test_v151_pulu :
    gives (step { start [0x37, 0x40] [(0x4000, [0x80, 0x00])] with u := 0x4000 })
      { start [0x37, 0x40] [(0x4000, [0x80, 0x00])] with u := 0x4002, s := 0x8000, pc := 0x1002, nmiArmed := true } = true := by decide
theorem test_v145_pshu :
    gives (step { start [0x36, 0xC0] [] with u := 0x4000, s := 0x8000 })
      { start [0x36, 0xC0] [(0x3FFF, [0x02]), (0x3FFE, [0x10]), (0x3FFD, [0x00]), (0x3FFC, [0x80])] with u := 0x3FFC, s := 0x8000, pc := 0x1002 } = true := by decide
theorem test_v155_jmp :
    gives (step { start [0x0E, 0x80] [] with dp := 0x20 })
      { start [0x0E, 0x80] [] with dp := 0x20, pc := 0x2080 } = true := by decide
theorem test_v156_jmp :
    gives (step { start [0x6E, 0x94] [(0x2000, [0xC0, 0x00])] with x := 0x2000 })
      { start [0x6E, 0x94] [(0x2000, [0xC0, 0x00])] with x := 0x2000, pc := 0xC000 } = true := by decide
theorem test_v158_jsr :
    gives (step { start [0xAD, 0xF4] [(0x7FFE, [0x30, 0x00])] with s := 0x7FFE })
      { start [0xAD, 0xF4] [(0x7FFE, [0x30, 0x00]), (0x7FFD, [0x02]), (0x7FFC, [0x10])] with s := 0x7FFC, pc := 0x3000 } = true := by decide
theorem test_v160_rts :
    gives (step { start [0x39] [(0xFFFF, [0x12]), (0x0000, [0x34])] with s := 0xFFFF })
      { start [0x39] [(0xFFFF, [0x12]), (0x0000, [0x34])] with s := 0x0001, pc := 0x1234 } = true := by decide
theorem test_v161_bsr :
    gives (step { start [0x8D, 0x10] [] with s := 0x8000 })
      { start [0x8D, 0x10] [(0x7FFF, [0x02]), (0x7FFE, [0x10])] with s := 0x7FFE, pc := 0x1012 } = true := by decide
theorem test_v162_lbsr :
    gives (step { start [0x17, 0xF0, 0x00] [] with s := 0x8000 })
      { start [0x17, 0xF0, 0x00] [(0x7FFF, [0x03]), (0x7FFE, [0x10])] with s := 0x7FFE, pc := 0x0003 } = true := by decide
theorem test_v165_bra :
    gives (step (start [0x20, 0x80] []))
      { start [0x20, 0x80] [] with pc := 0x0F82 } = true := by decide
theorem test_v166_lbra :
    gives (step (start [0x16, 0xF0, 0x00] []))
      { start [0x16, 0xF0, 0x00] [] with pc := 0x0003 } = true := by decide
theorem test_v168_lbrn :
    gives (step (start [0x10, 0x21, 0x12, 0x34] []))
      { start [0x10, 0x21, 0x12, 0x34] [] with pc := 0x1004 } = true := by decide
theorem test_v169_bcc :
    gives (step { start [0x24, 0x10] [] with cc := 0x0E })
      { start [0x24, 0x10] [] with cc := 0x0E, pc := 0x1012 } = true := by decide
theorem test_v172_bcs :
    gives (step { start [0x25, 0x10] [] with cc := 0x0E })
      { start [0x25, 0x10] [] with cc := 0x0E, pc := 0x1002 } = true := by decide
theorem test_v173_beq :
    gives (step { start [0x27, 0x10] [] with cc := 0x04 })
      { start [0x27, 0x10] [] with cc := 0x04, pc := 0x1012 } = true := by decide
theorem test_v176_bne :
    gives (step { start [0x26, 0x10] [] with cc := 0x04 })
      { start [0x26, 0x10] [] with cc := 0x04, pc := 0x1002 } = true := by decide
theorem test_v177_bmi :
    gives (step { start [0x2B, 0x10] [] with cc := 0x08 })
      { start [0x2B, 0x10] [] with cc := 0x08, pc := 0x1012 } = true := by decide
theorem test_v180_bpl :
    gives (step { start [0x2A, 0x10] [] with cc := 0x08 })
      { start [0x2A, 0x10] [] with cc := 0x08, pc := 0x1002 } = true := by decide
theorem test_v182_bvs :
    gives (step { start [0x29, 0x10] [] with cc := 0x0D })
      { start [0x29, 0x10] [] with cc := 0x0D, pc := 0x1002 } = true := by decide
theorem test_v183_bvc :
    gives (step { start [0x28, 0x10] [] with cc := 0x0D })
      { start [0x28, 0x10] [] with cc := 0x0D, pc := 0x1012 } = true := by decide
theorem test_v188_bge :
    gives (step { start [0x2C, 0x10] [] with cc := 0x02 })
      { start [0x2C, 0x10] [] with cc := 0x02, pc := 0x1002 } = true := by decide
theorem test_v190_blt :
    gives (step { start [0x2D, 0x10] [] with cc := 0x02 })
      { start [0x2D, 0x10] [] with cc := 0x02, pc := 0x1012 } = true := by decide
theorem test_v195_bgt :
    gives (step { start [0x2E, 0x10] [] with cc := 0x04 })
      { start [0x2E, 0x10] [] with cc := 0x04, pc := 0x1002 } = true := by decide
theorem test_v198_ble :
    gives (step { start [0x2F, 0x10] [] with cc := 0x08 })
      { start [0x2F, 0x10] [] with cc := 0x08, pc := 0x1012 } = true := by decide
theorem test_v202_bhi :
    gives (step { start [0x22, 0x10] [] with cc := 0x01 })
      { start [0x22, 0x10] [] with cc := 0x01, pc := 0x1002 } = true := by decide
theorem test_v205_bls :
    gives (step { start [0x23, 0x10] [] with cc := 0x04 })
      { start [0x23, 0x10] [] with cc := 0x04, pc := 0x1012 } = true := by decide
theorem test_v207_lbeq :
    gives (step { start [0x10, 0x27, 0x01, 0x00] [] with cc := 0x04 })
      { start [0x10, 0x27, 0x01, 0x00] [] with cc := 0x04, pc := 0x1104 } = true := by decide
theorem test_v208_lbeq :
    gives (step { start [0x10, 0x27, 0x01, 0x00] [] with cc := 0x00 })
      { start [0x10, 0x27, 0x01, 0x00] [] with cc := 0x00, pc := 0x1004 } = true := by decide
theorem test_v210_lblt :
    gives (step { start [0x10, 0x2D, 0x7F, 0xFF] [] with cc := 0x08 })
      { start [0x10, 0x2D, 0x7F, 0xFF] [] with cc := 0x08, pc := 0x9003 } = true := by decide
theorem test_v211_abx :
    gives (step { start [0x3A] [] with b := 0xFF, x := 0xFF01, cc := 0x00 })
      { start [0x3A] [] with b := 0xFF, x := 0x0000, cc := 0x00, pc := 0x1001 } = true := by decide
theorem test_v212_abx :
    gives (step { start [0x3A] [] with b := 0x80, x := 0x1000 })
      { start [0x3A] [] with b := 0x80, x := 0x1080, pc := 0x1001 } = true := by decide
theorem test_v213_mul :
    gives (step { start [0x3D] [] with a := 0x0C, b := 0x64 })
      { start [0x3D] [] with a := 0x04, b := 0xB0, cc := 0x01, pc := 0x1001 } = true := by decide
theorem test_v214_mul :
    gives (step { start [0x3D] [] with a := 0xFF, b := 0xFF, cc := 0x0F })
      { start [0x3D] [] with a := 0xFE, b := 0x01, cc := 0x0A, pc := 0x1001 } = true := by decide
theorem test_v217_daa :
    gives (step { start [0x19] [] with a := 0x41, cc := 0x20 })
      { start [0x19] [] with a := 0x47, cc := 0x20, pc := 0x1001 } = true := by decide
theorem test_v218_daa :
    gives (step { start [0x19] [] with a := 0x9A })
      { start [0x19] [] with a := 0x00, cc := 0x05, pc := 0x1001 } = true := by decide
theorem test_v222_sex :
    gives (step { start [0x1D] [] with a := 0x12, b := 0x80, cc := 0x02 })
      { start [0x1D] [] with a := 0xFF, b := 0x80, cc := 0x08, pc := 0x1001 } = true := by decide
theorem test_v223_sex :
    gives (step { start [0x1D] [] with a := 0xFF, b := 0x00 })
      { start [0x1D] [] with a := 0x00, b := 0x00, cc := 0x04, pc := 0x1001 } = true := by decide
theorem test_v225_nop :
    gives (step { start [0x12] [] with cc := 0xFF })
      { start [0x12] [] with cc := 0xFF, pc := 0x1001 } = true := by decide
theorem test_v226_andcc :
    gives (step { start [0x1C, 0xAF] [] with cc := 0xFF })
      { start [0x1C, 0xAF] [] with cc := 0xAF, pc := 0x1002 } = true := by decide
theorem test_v227_andcc :
    gives (step { start [0x1C, 0x00] [] with cc := 0xFF })
      { start [0x1C, 0x00] [] with cc := 0x00, pc := 0x1002 } = true := by decide
theorem test_v228_orcc :
    gives (step { start [0x1A, 0x50] [] with cc := 0x05 })
      { start [0x1A, 0x50] [] with cc := 0x55, pc := 0x1002 } = true := by decide
theorem test_v229_orcc :
    gives (step { start [0x1A, 0x01] [] with cc := 0x00 })
      { start [0x1A, 0x01] [] with cc := 0x01, pc := 0x1002 } = true := by decide
theorem test_v230_swi :
    gives (step { start [0x3F] [(0xFFF2, [0xC3, 0x00, 0xC2, 0x00, 0xC6, 0x00, 0xC8, 0x00, 0xC1, 0x00, 0xCC, 0x00, 0xF0, 0x00])] with cc := 0x05, a := 0xAA, b := 0xBB, dp := 0x01, x := 0x1111, y := 0x2222, u := 0x3333, s := 0x8000 })
      { start [0x3F] [(0xFFF2, [0xC3, 0x00, 0xC2, 0x00, 0xC6, 0x00, 0xC8, 0x00, 0xC1, 0x00, 0xCC, 0x00, 0xF0, 0x00]), (0x7FFF, [0x01]), (0x7FFE, [0x10]), (0x7FFD, [0x33]), (0x7FFC, [0x33]), (0x7FFB, [0x22]), (0x7FFA, [0x22]), (0x7FF9, [0x11]), (0x7FF8, [0x11]), (0x7FF7, [0x01]), (0x7FF6, [0xBB]), (0x7FF5, [0xAA]), (0x7FF4, [0x85])] with cc := 0xD5, a := 0xAA, b := 0xBB, dp := 0x01, x := 0x1111, y := 0x2222, u := 0x3333, s := 0x7FF4, pc := 0xC100 } = true := by decide
theorem test_v231_swi2 :
    gives (step { start [0x10, 0x3F] [(0xFFF2, [0xC3, 0x00, 0xC2, 0x00, 0xC6, 0x00, 0xC8, 0x00, 0xC1, 0x00, 0xCC, 0x00, 0xF0, 0x00])] with cc := 0x05, a := 0xAA, b := 0xBB, dp := 0x01, x := 0x1111, y := 0x2222, u := 0x3333, s := 0x8000 })
      { start [0x10, 0x3F] [(0xFFF2, [0xC3, 0x00, 0xC2, 0x00, 0xC6, 0x00, 0xC8, 0x00, 0xC1, 0x00, 0xCC, 0x00, 0xF0, 0x00]), (0x7FFF, [0x02]), (0x7FFE, [0x10]), (0x7FFD, [0x33]), (0x7FFC, [0x33]), (0x7FFB, [0x22]), (0x7FFA, [0x22]), (0x7FF9, [0x11]), (0x7FF8, [0x11]), (0x7FF7, [0x01]), (0x7FF6, [0xBB]), (0x7FF5, [0xAA]), (0x7FF4, [0x85])] with cc := 0x85, a := 0xAA, b := 0xBB, dp := 0x01, x := 0x1111, y := 0x2222, u := 0x3333, s := 0x7FF4, pc := 0xC200 } = true := by decide
theorem test_v232_swi3 :
    gives (step { start [0x11, 0x3F] [(0xFFF2, [0xC3, 0x00, 0xC2, 0x00, 0xC6, 0x00, 0xC8, 0x00, 0xC1, 0x00, 0xCC, 0x00, 0xF0, 0x00])] with cc := 0x05, a := 0xAA, b := 0xBB, dp := 0x01, x := 0x1111, y := 0x2222, u := 0x3333, s := 0x8000 })
      { start [0x11, 0x3F] [(0xFFF2, [0xC3, 0x00, 0xC2, 0x00, 0xC6, 0x00, 0xC8, 0x00, 0xC1, 0x00, 0xCC, 0x00, 0xF0, 0x00]), (0x7FFF, [0x02]), (0x7FFE, [0x10]), (0x7FFD, [0x33]), (0x7FFC, [0x33]), (0x7FFB, [0x22]), (0x7FFA, [0x22]), (0x7FF9, [0x11]), (0x7FF8, [0x11]), (0x7FF7, [0x01]), (0x7FF6, [0xBB]), (0x7FF5, [0xAA]), (0x7FF4, [0x85])] with cc := 0x85, a := 0xAA, b := 0xBB, dp := 0x01, x := 0x1111, y := 0x2222, u := 0x3333, s := 0x7FF4, pc := 0xC300 } = true := by decide
theorem test_v233_rti :
    gives (step { start [0x3B] [(0x7FF4, [0x85, 0xAA, 0xBB, 0x01, 0x11, 0x11, 0x22, 0x22, 0x33, 0x33, 0x10, 0x01])] with s := 0x7FF4, cc := 0x50 })
      { start [0x3B] [(0x7FF4, [0x85, 0xAA, 0xBB, 0x01, 0x11, 0x11, 0x22, 0x22, 0x33, 0x33, 0x10, 0x01])] with s := 0x8000, cc := 0x85, a := 0xAA, b := 0xBB, dp := 0x01, x := 0x1111, y := 0x2222, u := 0x3333, pc := 0x1001 } = true := by decide
theorem test_v234_rti :
    gives (step { start [0x3B] [(0x7FFD, [0x05, 0x10, 0x02])] with s := 0x7FFD, cc := 0xD0, a := 0x99 })
      { start [0x3B] [(0x7FFD, [0x05, 0x10, 0x02])] with s := 0x8000, cc := 0x05, a := 0x99, pc := 0x1002 } = true := by decide
theorem test_v235_cwai :
    gives (step { start [0x3C, 0xEF] [(0xFFF2, [0xC3, 0x00, 0xC2, 0x00, 0xC6, 0x00, 0xC8, 0x00, 0xC1, 0x00, 0xCC, 0x00, 0xF0, 0x00])] with cc := 0x54, a := 0xAA, b := 0xBB, dp := 0x01, x := 0x1111, y := 0x2222, u := 0x3333, s := 0x8000 })
      { start [0x3C, 0xEF] [(0xFFF2, [0xC3, 0x00, 0xC2, 0x00, 0xC6, 0x00, 0xC8, 0x00, 0xC1, 0x00, 0xCC, 0x00, 0xF0, 0x00]), (0x7FFF, [0x02]), (0x7FFE, [0x10]), (0x7FFD, [0x33]), (0x7FFC, [0x33]), (0x7FFB, [0x22]), (0x7FFA, [0x22]), (0x7FF9, [0x11]), (0x7FF8, [0x11]), (0x7FF7, [0x01]), (0x7FF6, [0xBB]), (0x7FF5, [0xAA]), (0x7FF4, [0xC4])] with cc := 0xC4, a := 0xAA, b := 0xBB, dp := 0x01, x := 0x1111, y := 0x2222, u := 0x3333, s := 0x7FF4, pc := 0x1002, runState := .cwaiWait } = true := by decide
theorem test_v236_sync :
    gives (step { start [0x13] [] with cc := 0x50 })
      { start [0x13] [] with cc := 0x50, pc := 0x1001, runState := .syncWait } = true := by decide

/-! Where H is undefined the other seven flags are as V10, V11, V13, V17, V20, V47, V51, V53 say, for either H. -/

theorem test_flags_sub : ∀ h : Bool,
    CC.put (CC.ofAlu8 0x00 h (sub8 0x00 0x01 false)) .h false = 0x09 ∧
      CC.put (CC.ofAlu8 0x00 h (sub8 0x80 0x01 false)) .h false = 0x02 ∧
      CC.put (CC.ofAlu8 0x00 h (sub8 0x50 0xB0 false)) .h false = 0x0B ∧
      CC.put (CC.ofAlu8 0x01 h (sub8 0x80 0x7F true)) .h false = 0x06 := by decide
theorem test_flags_neg : ∀ h : Bool,
    CC.put (neg8 h 0x80 0x00).2 .h false = 0x0B ∧ CC.put (neg8 h 0x00 0x0F).2 .h false = 0x04 := by decide
theorem test_flags_asl : ∀ h : Bool,
    CC.put (asl8 h 0x80 0x00).2 .h false = 0x07 ∧ CC.put (asl8 h 0x40 0x00).2 .h false = 0x0A := by decide
theorem test_flags_asr : ∀ h : Bool,
    CC.put (asr8 h 0x81 0x02).2 .h false = 0x0B ∧ CC.put (asr8 h 0x80 0x00).2 .h false = 0x08 := by decide

/-! ### Interrupts, waits and reset (V237 to V252) -/

/-- The vectors of spec/95_test_vectors.md 2.14. -/
def vectors : Nat × List Byte :=
  (0xFFF2, [0xC3, 0x00, 0xC2, 0x00, 0xC6, 0x00, 0xC8, 0x00, 0xC1, 0x00, 0xCC, 0x00, 0xF0, 0x00])

/-- The start state of spec/95_test_vectors.md 2.14, a NOP at PC, with the given input samples. -/
def boundary (cc : Byte) (inputs : List Inputs) : State :=
  { start [0x12] [vectors] with
    a := 0xAA, b := 0xBB, dp := 0x01, x := 0x1111, y := 0x2222, u := 0x3333, s := 0x8000, cc := cc,
    nmiArmed := true, irqIn := inputs }

/-- Memory after a stacking on that state. -/
def stacked (sp : Nat) (bs : List Byte) : Memory := cells [(0x1000, [0x12]), vectors, (sp, bs)]

theorem test_v237_irq :
    gives (step (boundary 0x05 [⟨false, false, true⟩]))
      { boundary 0x95 [] with
        s := 0x7FF4, pc := 0xC800,
        mem := stacked 0x7FF4 [0x85, 0xAA, 0xBB, 0x01, 0x11, 0x11, 0x22, 0x22, 0x33, 0x33, 0x10, 0x00] } = true := by decide
theorem test_v238_irq_masked :
    gives (step (boundary 0x15 [⟨false, false, true⟩])) { boundary 0x15 [] with pc := 0x1001 } = true := by decide
theorem test_v239_firq :
    gives (step (boundary 0x05 [⟨false, true, false⟩]))
      { boundary 0x55 [] with s := 0x7FFD, pc := 0xC600, mem := stacked 0x7FFD [0x05, 0x10, 0x00] } = true := by decide
theorem test_v240_firq_masked :
    gives (step (boundary 0x45 [⟨false, true, false⟩])) { boundary 0x45 [] with pc := 0x1001 } = true := by decide
theorem test_v241_nmi :
    gives (step (boundary 0x55 [⟨true, false, false⟩]))
      { boundary 0xD5 [] with
        s := 0x7FF4, pc := 0xCC00,
        mem := stacked 0x7FF4 [0xD5, 0xAA, 0xBB, 0x01, 0x11, 0x11, 0x22, 0x22, 0x33, 0x33, 0x10, 0x00] } = true := by decide
theorem test_v242_nmi_not_armed :
    gives (step { boundary 0x05 [⟨true, false, false⟩] with nmiArmed := false })
      { boundary 0x05 [] with nmiArmed := false, pc := 0x1001 } = true := by decide
theorem test_v244_irq_with_firq_masked :
    gives (step (boundary 0x40 [⟨false, true, true⟩]))
      { boundary 0xD0 [] with
        s := 0x7FF4, pc := 0xC800,
        mem := stacked 0x7FF4 [0xC0, 0xAA, 0xBB, 0x01, 0x11, 0x11, 0x22, 0x22, 0x33, 0x33, 0x10, 0x00] } = true := by decide
theorem test_v247_firq_after_cwai :
    gives (step { boundary 0x94 [⟨false, true, false⟩] with s := 0x7FF4, pc := 0x1002, runState := .cwaiWait })
      { boundary 0xD4 [] with s := 0x7FF4, pc := 0xC600 } = true := by decide
theorem test_v248_irq_masked_in_cwai :
    gives (step { boundary 0xD4 [⟨false, false, true⟩] with runState := .cwaiWait })
      { boundary 0xD4 [] with runState := .cwaiWait } = true := by decide
theorem test_v249_masked_irq_ends_sync :
    gives (step { boundary 0x50 [⟨false, false, true⟩] with runState := .syncWait })
      { boundary 0x50 [] with pc := 0x1001 } = true := by decide
theorem test_v251_sync_waits :
    gives (step { boundary 0x00 [] with runState := .syncWait }) { boundary 0x00 [] with runState := .syncWait } = true := by
  decide
theorem test_v252_reset :
    (match resetSequence { boundary 0x0F [] with a := 0x12, dp := 0x34, s := 0x4321, runState := .cwaiWait } with
      | .ok t => decide (t = { boundary 0x5F [] with a := 0x12, dp := 0, s := 0x4321, pc := 0xF000, nmiArmed := false })
      | .error _ => false) = true := by decide


/-! ### A reset inside a step: R340, by hand from the pseudocode of R215 and R145 and the order of R46 -/

/-- `STD $2000` with N, Z, V and C set and a reset vector of $4000. -/
def storing : State :=
  { start [0xFD, 0x20, 0x00] [(0xFFFE, [0x40, 0x00])] with a := 0x12, b := 0x34, dp := 0x55, cc := 0x0F, nmiArmed := true }

/-- `storing` after a reset that found these bytes at $2000 and this CC. -/
def storingReset (bs : List Byte) (cc : Byte) : State :=
  { storing with
    mem := cells [(0x1000, [0xFD, 0x20, 0x00]), (0xFFFE, [0x40, 0x00]), (0x2000, bs)]
    dp := 0, cc := cc, nmiArmed := false, pc := 0x4000 }

theorem test_reset_inside_std :
    gives (resetDuring 0 storing) (storingReset [0x00, 0x00] 0x5F) = true ∧
      gives (resetDuring 6 storing) (storingReset [0x00, 0x00] 0x5F) = true ∧
      gives (resetDuring 7 storing) (storingReset [0x12, 0x00] 0x5F) = true ∧
      gives (resetDuring 9 storing) (storingReset [0x12, 0x34] 0x5F) = true ∧
      gives (resetDuring 10 storing) (storingReset [0x12, 0x34] 0x51) = true := by decide

/-- `INC $2000` of $FF: read, then the flags, then the write. -/
def counting : State := start [0x7C, 0x20, 0x00] [(0x2000, [0xFF]), (0xFFFE, [0x40, 0x00])]

theorem test_reset_inside_inc :
    gives (resetDuring 7 counting) { counting with cc := 0x50, pc := 0x4000 } = true ∧
      gives (resetDuring 8 counting) { counting with cc := 0x54, pc := 0x4000 } = true ∧
      gives (resetDuring 9 counting)
        { counting with cc := 0x54, pc := 0x4000, mem := cells [(0x1000, [0x7C, 0x20, 0x00]), (0xFFFE, [0x40, 0x00])] } =
        true := by decide

/-! ### Witnesses: for every statement with hypotheses, states and operands that meet them -/

/-- An outcome is a next state. -/
def isNext (o : Host.Outcome State Fault Refusal) : Bool :=
  match o with
  | .next _ => true
  | .fault _ => false
  | .refused _ => false

theorem next_of_isNext {o : Host.Outcome State Fault Refusal} (h : isNext o = true) : ∃ t, o = .next t := by
  cases o with
  | next t => exact ⟨t, rfl⟩
  | fault r => cases h
  | refused r => cases h

/-- Registers all different, all of memory ram. -/
def plain : State :=
  { start [] [(0x4000, [0x80, 0x01, 0x99]), (0xFFFF, [0x44])] with
    a := 0x12, b := 0x34, dp := 0x20, x := 0x4000, y := 0x5000, u := 0x6000, s := 0x7000 }

/-- The same with X, U and S at the top of memory. -/
def top : State := { plain with x := 0xFFFF, u := 0x0000, s := 0xFFFF }

/-- The same on a platform with a device, a hole and a rom at the top. -/
def mapped : State :=
  { plain with platform := [⟨0xE000, 0x100, .device⟩, ⟨0xE100, 0x100, .absent⟩, ⟨0xF000, 0x1000, .rom⟩] }

theorem noHoles_of_empty {s : State} (h : s.platform = []) : s.NoHoles := by
  intro a
  left
  unfold State.region
  rw [h]
  rfl

theorem ram_of_empty {s : State} (h : s.platform = []) (a : Word) : s.region a = .ram := by
  unfold State.region
  rw [h]
  rfl

theorem witness_EncodedInstructionsDecodeBack :
    (Instr.tfr (.r8 .a) (.r8 .dp)).WellFormed ∧ (Instr.lsl (.indexed (.pcr16 .s 0x8000 true))).WellFormed := by decide
theorem witness_DecodedBytesEncodeBack :
    decode [0x10, 0xAE, 0xB8, 0x05, 0x99] = .ok (.ldy (.mem (.indexed (.offset8 .y 5 true))), 4) := by rfl
theorem witness_IndexedPostbytesWithoutAMeaning :
    ([0x12, 0xFF] : List Byte)[1]? = some 0xFF ∧
      decodeIndexed (byteAt [0x12, 0xFF]) DecodeError.undefined 1 = .error (.undefined (.indexedPostbyte 0xFF)) ∧
      decodeIndexed (byteAt [0x87]) DecodeError.undefined 0 = .error (.undefined (.indexedPostbyte 0x87)) :=
  ⟨rfl, rfl, rfl⟩

/-- An instruction across the top of memory, with every request masked or not armed. -/
def wrapped : State :=
  { start [] [(0xFFFE, [0x10, 0xAE]), (0x0000, [0xB8, 0x05])] with
    pc := 0xFFFE, cc := 0x50, irqIn := [⟨true, true, true⟩] }

theorem witness_StepRunsTheDecodedInstruction :
    wrapped.runState = .running ∧ wrapped.Quiet ∧
      (∀ k : Nat, ∀ b ∈ ([0x10, 0xAE, 0xB8, 0x05] : List Byte)[k]?,
        readByte wrapped (wrapped.pc + BitVec.ofNat 16 k) = .ok b) ∧
      decode [0x10, 0xAE, 0xB8, 0x05] = .ok (.ldy (.mem (.indexed (.offset8 .y 5 true))), 4) := by
  refine ⟨rfl, ⟨by decide, by decide, by decide, by decide⟩, ?_, rfl⟩
  intro k b hb
  match k, hb with
  | 0, hb => cases hb; rfl
  | 1, hb => cases hb; rfl
  | 2, hb => cases hb; rfl
  | 3, hb => cases hb; rfl
  | k + 4, hb => simp at hb

theorem witness_EveryStepKeepsTheInvariant_instruction : plain.Inv ∧ ∃ t, step plain = .next t :=
  ⟨⟨by decide, by decide, by decide⟩, next_of_isNext (by decide)⟩
theorem witness_EveryStepKeepsTheInvariant_nmi :
    { plain with nmiArmed := true, nmiPending := true }.Inv ∧
      ∃ t, step { plain with nmiArmed := true, nmiPending := true } = .next t :=
  ⟨⟨by decide, by decide, by decide⟩, next_of_isNext (by decide)⟩
theorem witness_EveryStepKeepsTheInvariant_wait :
    { plain with runState := .cwaiWait, cc := 0x80 }.Inv ∧
      ∃ t, step { plain with runState := .cwaiWait, cc := 0x80 } = .next t :=
  ⟨⟨by decide, by decide, by decide⟩, next_of_isNext (by decide)⟩
theorem witness_NoStepChangesRomOrPlatform :
    (∃ t, step mapped = .next t) ∧ mapped.region 0xF000 ≠ .ram ∧ mapped.region 0xFFFF ≠ .ram ∧
      mapped.region 0xE000 ≠ .ram ∧ mapped.region 0xE1FF ≠ .ram := by
  refine ⟨next_of_isNext (by decide), ?_⟩
  decide
theorem witness_NoInstructionStopsWithoutHoles : Instr.rti.WellFormed ∧ plain.NoHoles :=
  ⟨rfl, noHoles_of_empty rfl⟩
theorem witness_FlagFrame :
    (∃ t, exec (.adda (.imm 0xFF)) plain = .next t) ∧ Flag.e ∉ writtenFlags (.adda (.imm 0xFF)) ∧
      (∃ t, exec .swi2 plain = .next t) ∧ Flag.i ∉ writtenFlags .swi2 :=
  ⟨next_of_isNext (by decide), by decide, next_of_isNext (by decide), by decide⟩
theorem witness_RegisterFrame :
    (∃ t, exec (.lda (.mem (.indexed (.postInc1 .x)))) plain = .next t) ∧
      Reg.r8 .b ∉ writtenRegisters (.lda (.mem (.indexed (.postInc1 .x)))) ∧
      Reg.r16 .y ∉ writtenRegisters (.lda (.mem (.indexed (.postInc1 .x)))) :=
  ⟨next_of_isNext (by decide), by decide, by decide⟩
theorem witness_MemoryFrame :
    (∃ t, exec (.stx (.extended 0xFFFF)) plain = .next t) ∧ 0xFFFE ∉ storedBytes (.stx (.extended 0xFFFF)) plain ∧
      0x0001 ∉ storedBytes (.stx (.extended 0xFFFF)) plain ∧ 0x0000 ∈ storedBytes (.stx (.extended 0xFFFF)) plain :=
  ⟨next_of_isNext (by decide), by decide, by decide, by decide⟩
theorem witness_HiddenStateFrame :
    (∃ t, exec .nop plain = .next t) ∧ (∃ t, exec (.cwai 0xEF) plain = .next t) ∧ (∃ t, exec .sync plain = .next t) :=
  ⟨next_of_isNext (by decide), next_of_isNext (by decide), next_of_isNext (by decide)⟩
theorem witness_IndirectAddresses_noOffset :
    effectiveAddress (.indexed (.noOffset .x false)) top = .ok (0xFFFF, top) ∧
      readByte top 0xFFFF = .ok 0x44 ∧ readByte top (0xFFFF + 1) = .ok 0x00 := ⟨rfl, rfl, rfl⟩
theorem witness_IndirectAddresses_increment :
    effectiveAddress (.indexed (.postInc2 .x false)) plain = .ok (0x4000, { plain with x := 0x4002 }) ∧
      readByte { plain with x := 0x4002 } 0x4000 = .ok 0x80 ∧
      readByte { plain with x := 0x4002 } (0x4000 + 1) = .ok 0x01 := ⟨rfl, rfl, rfl⟩
theorem witness_WordAccessesAreBigEndian :
    top.region 0xFFFF = .ram ∧ top.region (0xFFFF + 1) = .ram ∧
      readByte top 0xFFFF = .ok 0x44 ∧ readByte top (0xFFFF + 1) = .ok 0x00 := ⟨rfl, rfl, rfl, rfl⟩
theorem witness_RegionsDecideAccesses :
    mapped.region 0xDFFF = .ram ∧ mapped.region 0xE000 = .device ∧ mapped.region 0xE0FF = .device ∧
      mapped.region 0xE100 = .absent ∧ mapped.region 0xE1FF = .absent ∧ mapped.region 0xE200 = .ram ∧
      mapped.region 0xEFFF = .ram ∧ mapped.region 0xF000 = .rom ∧ mapped.region 0xFFFF = .rom := by decide
theorem witness_StackPrimitives :
    top.region (top.sp .u - 1) = .ram ∧ top.region (top.sp .u - 2) = .ram ∧
      readByte top (top.sp .s) = .ok 0x44 ∧ readByte top (top.sp .s + 1) = .ok 0x00 := ⟨rfl, rfl, rfl, rfl⟩

/-- An 8-bit operand of every kind: immediate, direct, indexed across the top of memory, extended. -/
theorem operand8_witness :
    operand8 (.imm 0x5A) plain = .ok (0x5A, plain) ∧ operand8 (.mem (.direct 0xFF)) plain = .ok (0x00, plain) ∧
      operand8 (.mem (.indexed (.postInc1 .x))) top = .ok (0x44, { top with x := 0x0000 }) ∧
      operand8 (.mem (.extended 0x4000)) plain = .ok (0x80, plain) := ⟨rfl, rfl, rfl, rfl⟩

/-- A 16-bit operand of every kind. -/
theorem operand16_witness :
    operand16 (.imm 0x8000) plain = .ok (0x8000, plain) ∧ operand16 (.mem (.direct 0xFF)) plain = .ok (0x0000, plain) ∧
      operand16 (.mem (.indexed (.postInc2 .x false))) top = .ok (0x4400, { top with x := 0x0001 }) ∧
      operand16 (.mem (.extended 0x4000)) plain = .ok (0x8001, plain) := ⟨rfl, rfl, rfl, rfl⟩

/-- An effective address that reads, of every kind. -/
theorem address_witness :
    (effectiveAddress (.direct 0xFF) plain = .ok (0x20FF, plain) ∧ readByte plain 0x20FF = .ok 0x00) ∧
      (effectiveAddress (.indexed (.preDec1 .u)) top = .ok (0xFFFF, { top with u := 0xFFFF }) ∧
        readByte { top with u := 0xFFFF } 0xFFFF = .ok 0x44) ∧
      (effectiveAddress (.extended 0x4000) plain = .ok (0x4000, plain) ∧ readByte plain 0x4000 = .ok 0x80) :=
  ⟨⟨rfl, rfl⟩, ⟨rfl, rfl⟩, ⟨rfl, rfl⟩⟩

/-- An effective address whose byte, and the next, can be stored to or, in rom, stored to without effect. -/
theorem usable_witness :
    (effectiveAddress (.extended 0xFFFF) mapped = .ok (0xFFFF, mapped) ∧ mapped.Usable 0xFFFF ∧
      mapped.Usable (0xFFFF + 1)) ∧
      (effectiveAddress (.indexed (.preDec2 .y false)) mapped = .ok (0x4FFE, { mapped with y := 0x4FFE }) ∧
        { mapped with y := 0x4FFE }.Usable 0x4FFE ∧ { mapped with y := 0x4FFE }.Usable (0x4FFE + 1)) :=
  ⟨⟨rfl, .inr rfl, .inl rfl⟩, ⟨rfl, .inl rfl, .inl rfl⟩⟩

theorem witness_AddAndAddWithCarry : operand8 (.imm 0x5A) plain = .ok (0x5A, plain) := operand8_witness.1
theorem witness_SubtractAndSubtractWithBorrow : operand8 (.mem (.direct 0xFF)) plain = .ok (0x00, plain) :=
  operand8_witness.2.1
theorem witness_CompareAccumulator : operand8 (.mem (.extended 0x4000)) plain = .ok (0x80, plain) :=
  operand8_witness.2.2.2
theorem witness_AddAndSubtractD : operand16 (.imm 0x8000) plain = .ok (0x8000, plain) := operand16_witness.1
theorem witness_CompareWordRegister :
    operand16 (.mem (.indexed (.postInc2 .x false))) top = .ok (0x4400, { top with x := 0x0001 }) :=
  operand16_witness.2.2.1
theorem witness_LogicIntoAccumulator :
    operand8 (.mem (.indexed (.postInc1 .x))) top = .ok (0x44, { top with x := 0x0000 }) := operand8_witness.2.2.1
theorem witness_BitAndTest :
    operand8 (.imm 0x5A) plain = .ok (0x5A, plain) ∧
      (effectiveAddress (.extended 0x4000) plain = .ok (0x4000, plain) ∧ readByte plain 0x4000 = .ok 0x80) :=
  ⟨operand8_witness.1, address_witness.2.2⟩
theorem witness_LoadsFromMemory :
    operand8 (.imm 0x5A) plain = .ok (0x5A, plain) ∧ operand16 (.imm 0x8000) plain = .ok (0x8000, plain) :=
  ⟨operand8_witness.1, operand16_witness.1⟩
theorem witness_StoreAccumulator :
    effectiveAddress (.extended 0xFFFF) mapped = .ok (0xFFFF, mapped) ∧ mapped.Usable 0xFFFF :=
  ⟨usable_witness.1.1, usable_witness.1.2.1⟩
theorem witness_StoreWordRegister :
    effectiveAddress (.extended 0xFFFF) mapped = .ok (0xFFFF, mapped) ∧ mapped.Usable 0xFFFF ∧
      mapped.Usable (0xFFFF + 1) := usable_witness.1
theorem witness_ShiftsAndRotatesLeft :
    effectiveAddress (.direct 0xFF) plain = .ok (0x20FF, plain) ∧ readByte plain 0x20FF = .ok 0x00 := address_witness.1
theorem witness_ShiftsAndRotatesRight :
    effectiveAddress (.indexed (.preDec1 .u)) top = .ok (0xFFFF, { top with u := 0xFFFF }) ∧
      readByte { top with u := 0xFFFF } 0xFFFF = .ok 0x44 := address_witness.2.1
theorem witness_NegateAndComplement :
    effectiveAddress (.extended 0x4000) plain = .ok (0x4000, plain) ∧ readByte plain 0x4000 = .ok 0x80 :=
  address_witness.2.2
theorem witness_IncrementDecrementClear :
    effectiveAddress (.extended 0x4000) plain = .ok (0x4000, plain) ∧ readByte plain 0x4000 = .ok 0x80 :=
  address_witness.2.2
theorem witness_DaaCorrectsDecimalSums :
    operand8 (.imm 0x99) { plain with a := 0x99, cc := 0x01 } = .ok (0x99, { plain with a := 0x99, cc := 0x01 }) ∧
      (0x99#8).toNat % 16 ≤ 9 ∧ (0x99#8).toNat / 16 ≤ 9 := ⟨rfl, by decide, by decide⟩
theorem witness_LoadEffectiveAddress :
    indexedEA (.offset16 .x 1 false) top = .ok (0x0000, top) ∧
      indexedEA (.postInc2 .x true) plain = .ok (0x8001, { plain with x := 0x4002 }) := ⟨rfl, rfl⟩
theorem witness_PushRegisterList : plain.NoHoles ∧ top.NoHoles := ⟨noHoles_of_empty rfl, noHoles_of_empty rfl⟩
theorem witness_PullRegisterList : plain.NoHoles ∧ top.NoHoles := ⟨noHoles_of_empty rfl, noHoles_of_empty rfl⟩
theorem witness_PullRestoresPush :
    (∀ k : Nat, k < 12 → top.region (top.s - BitVec.ofNat 16 (k + 1)) = .ram) ∧
      (∀ k : Nat, k < 12 → top.region (top.u - BitVec.ofNat 16 (k + 1)) = .ram) :=
  ⟨fun _ _ => ram_of_empty rfl _, fun _ _ => ram_of_empty rfl _⟩
theorem witness_JumpsCallsAndReturns :
    (effectiveAddress (.indexed (.noOffset .s true)) top = .ok (0x4400, top) ∧ top.Usable (top.s - 1) ∧
      top.Usable (top.s - 2)) ∧
      readByte top top.s = .ok 0x44 ∧ readByte top (top.s + 1) = .ok 0x00 :=
  ⟨⟨rfl, .inl rfl, .inl rfl⟩, rfl, rfl⟩
theorem witness_BranchesTakenByTheirCondition :
    CC.get 0xF5 .n = CC.get 0x05 .n ∧ CC.get 0xF5 .z = CC.get 0x05 .z ∧ CC.get 0xF5 .v = CC.get 0x05 .v ∧
      CC.get 0xF5 .c = CC.get 0x05 .c := by decide
theorem witness_ComparisonThenBranch :
    operand8 (.imm 0x5A) plain = .ok (0x5A, plain) ∧ operand16 (.mem (.extended 0x4000)) plain = .ok (0x8001, plain) :=
  ⟨operand8_witness.1, operand16_witness.2.2.2⟩
theorem witness_SoftwareInterrupts : plain.NoHoles ∧ top.NoHoles := ⟨noHoles_of_empty rfl, noHoles_of_empty rfl⟩

theorem witness_ReturnFromInterrupt_entire :
    { plain with s := 0x4000 }.NoHoles ∧ readByte { plain with s := 0x4000 } 0x4000 = .ok 0x80 ∧
      CC.get 0x80 .e = true := ⟨noHoles_of_empty rfl, rfl, by decide⟩
theorem witness_ReturnFromInterrupt_short :
    { plain with s := 0x4001 }.NoHoles ∧ readByte { plain with s := 0x4001 } 0x4001 = .ok 0x01 ∧
      CC.get 0x01 .e = false := ⟨noHoles_of_empty rfl, rfl, by decide⟩
theorem witness_RtiUndoesSoftwareInterrupts :
    top.NoHoles ∧ (∀ k : Nat, k < 12 → top.region (top.s - BitVec.ofNat 16 (k + 1)) = .ram) :=
  ⟨noHoles_of_empty rfl, fun _ _ => ram_of_empty rfl _⟩
theorem witness_CwaiAndSync : plain.NoHoles := noHoles_of_empty rfl
theorem witness_NmiEntry_latched :
    { plain with nmiPending := true }.NoHoles ∧ { plain with nmiPending := true }.runState ≠ .cwaiWait ∧
      { plain with nmiPending := true }.nmiPending = true := ⟨noHoles_of_empty rfl, by decide, rfl⟩
theorem witness_NmiEntry_edge :
    (boundary 0x50 [⟨true, true, true⟩]).NoHoles ∧ (boundary 0x50 [⟨true, true, true⟩]).runState ≠ .cwaiWait ∧
      (boundary 0x50 [⟨true, true, true⟩]).sample.nmiEdge = true ∧
      (boundary 0x50 [⟨true, true, true⟩]).nmiArmed = true := ⟨noHoles_of_empty rfl, by decide, rfl, rfl⟩
theorem witness_FirqEntry :
    (boundary 0x10 [⟨false, true, true⟩]).NoHoles ∧ (boundary 0x10 [⟨false, true, true⟩]).runState ≠ .cwaiWait ∧
      (boundary 0x10 [⟨false, true, true⟩]).nmiPending = false ∧
      ¬((boundary 0x10 [⟨false, true, true⟩]).sample.nmiEdge = true ∧ (boundary 0x10 [⟨false, true, true⟩]).nmiArmed = true) ∧
      (boundary 0x10 [⟨false, true, true⟩]).sample.firqLevel = true ∧
      CC.get (boundary 0x10 [⟨false, true, true⟩]).cc .f = false :=
  ⟨noHoles_of_empty rfl, by decide, rfl, by decide, rfl, by decide⟩
theorem witness_IrqEntry :
    (boundary 0x40 [⟨false, true, true⟩]).NoHoles ∧ (boundary 0x40 [⟨false, true, true⟩]).runState ≠ .cwaiWait ∧
      (boundary 0x40 [⟨false, true, true⟩]).nmiPending = false ∧
      ¬((boundary 0x40 [⟨false, true, true⟩]).sample.nmiEdge = true ∧ (boundary 0x40 [⟨false, true, true⟩]).nmiArmed = true) ∧
      ¬((boundary 0x40 [⟨false, true, true⟩]).sample.firqLevel = true ∧
        CC.get (boundary 0x40 [⟨false, true, true⟩]).cc .f = false) ∧
      (boundary 0x40 [⟨false, true, true⟩]).sample.irqLevel = true ∧
      CC.get (boundary 0x40 [⟨false, true, true⟩]).cc .i = false :=
  ⟨noHoles_of_empty rfl, by decide, rfl, by decide, by decide, rfl, by decide⟩

/-- Waiting after CWAI, with the given CC and inputs. -/
def inCwai (cc : Byte) (inputs : List Inputs) : State := { boundary cc inputs with runState := .cwaiWait }

/-- Waiting after SYNC. -/
def inSync (cc : Byte) (inputs : List Inputs) : State := { boundary cc inputs with runState := .syncWait }

theorem witness_WaitingAndWaking_quiet :
    (inCwai 0xD0 [⟨false, true, true⟩]).runState = .cwaiWait ∧ (inCwai 0xD0 [⟨false, true, true⟩]).Quiet :=
  ⟨rfl, by decide, by decide, by decide, by decide⟩
theorem witness_WaitingAndWaking_firq :
    (inCwai 0x90 [⟨false, true, true⟩]).runState = .cwaiWait ∧ (inCwai 0x90 [⟨false, true, true⟩]).NoHoles ∧
      (inCwai 0x90 [⟨false, true, true⟩]).nmiPending = false ∧
      ¬((inCwai 0x90 [⟨false, true, true⟩]).sample.nmiEdge = true ∧ (inCwai 0x90 [⟨false, true, true⟩]).nmiArmed = true) ∧
      (inCwai 0x90 [⟨false, true, true⟩]).sample.firqLevel = true ∧
      CC.get (inCwai 0x90 [⟨false, true, true⟩]).cc .f = false :=
  ⟨rfl, noHoles_of_empty rfl, rfl, by decide, rfl, by decide⟩
theorem witness_WaitingAndWaking_irq :
    (inCwai 0xC0 [⟨false, true, true⟩]).runState = .cwaiWait ∧ (inCwai 0xC0 [⟨false, true, true⟩]).NoHoles ∧
      (inCwai 0xC0 [⟨false, true, true⟩]).nmiPending = false ∧
      ¬((inCwai 0xC0 [⟨false, true, true⟩]).sample.nmiEdge = true ∧ (inCwai 0xC0 [⟨false, true, true⟩]).nmiArmed = true) ∧
      ¬((inCwai 0xC0 [⟨false, true, true⟩]).sample.firqLevel = true ∧
        CC.get (inCwai 0xC0 [⟨false, true, true⟩]).cc .f = false) ∧
      (inCwai 0xC0 [⟨false, true, true⟩]).sample.irqLevel = true ∧
      CC.get (inCwai 0xC0 [⟨false, true, true⟩]).cc .i = false :=
  ⟨rfl, noHoles_of_empty rfl, rfl, by decide, by decide, rfl, by decide⟩
theorem witness_WaitingAndWaking_nmi :
    (inCwai 0xD0 [⟨true, false, false⟩]).runState = .cwaiWait ∧ (inCwai 0xD0 [⟨true, false, false⟩]).NoHoles ∧
      (inCwai 0xD0 [⟨true, false, false⟩]).sample.nmiEdge = true ∧ (inCwai 0xD0 [⟨true, false, false⟩]).nmiArmed = true :=
  ⟨rfl, noHoles_of_empty rfl, rfl, rfl⟩
theorem witness_WaitingAndWaking_sync_waits :
    (inSync 0x00 []).runState = .syncWait ∧ (inSync 0x00 []).nmiPending = false ∧
      ¬((inSync 0x00 []).sample.nmiEdge = true ∧ (inSync 0x00 []).nmiArmed = true) ∧
      (inSync 0x00 []).sample.firqLevel = false ∧ (inSync 0x00 []).sample.irqLevel = false :=
  ⟨rfl, rfl, by decide, rfl, rfl⟩
theorem witness_WaitingAndWaking_sync_ends :
    (inSync 0x50 [⟨false, false, true⟩]).runState = .syncWait ∧
      (inSync 0x50 [⟨false, false, true⟩]).sample.irqLevel = true := ⟨rfl, rfl⟩
theorem witness_ResetSequence : (boundary 0x0F []).NoHoles := noHoles_of_empty rfl
theorem witness_ResetSequence_step : ∃ t, step storing = .next t := next_of_isNext (by decide)
theorem witness_ResetSequence_fetch :
    storing.runState = .running ∧ storing.Quiet ∧
      (∀ k : Nat, ∀ b ∈ ([0xFD, 0x20, 0x00] : List Byte)[k]?, readByte storing (storing.pc + BitVec.ofNat 16 k) = .ok b) ∧
      decode [0xFD, 0x20, 0x00] = .ok (.std (.extended 0x2000), 3) := by
  refine ⟨rfl, ⟨by decide, by decide, by decide, by decide⟩, ?_, rfl⟩
  intro k b hb
  match k, hb with
  | 0, hb => cases hb; rfl
  | 1, hb => cases hb; rfl
  | 2, hb => cases hb; rfl
  | k + 3, hb => simp at hb
theorem witness_ResetSequence_push :
    top.NoHoles ∧ 0 < 2 * (frameBytes .s RegList.all top).length ∧ 23 < 2 * (frameBytes .s RegList.all top).length :=
  ⟨noHoles_of_empty rfl, by decide, by decide⟩
theorem witness_ResetSequence_store : storing.Usable 0xFFFF ∧ mapped.Usable 0xF000 := ⟨.inl rfl, .inr rfl⟩

end Sys2Proof.Tests
end

section
/-! PROOFS. The flag frame (spec/10_state.md R28 to R34): which flags each computation of CC writes, then which flags each
shared operation writes, then the table of the instructions. -/

namespace Sys2Proof.Machine

/-! ### Which flags of a CC byte change -/

/-- The CC bytes `p` and `q` agree in every flag outside `fs`. -/
def CC.ChangesOnly (fs : List Flag) (p q : Byte) : Prop :=
  ∀ k : Flag, k ∉ fs → CC.get q k = CC.get p k

theorem CC.ChangesOnly.of_eq {fs : List Flag} {p q : Byte} (h : q = p) : CC.ChangesOnly fs p q := by
  intro k _
  rw [h]

theorem CC.ChangesOnly.refl (fs : List Flag) (p : Byte) : CC.ChangesOnly fs p p := .of_eq rfl

/-- A CC byte replaced as a whole changes nothing outside all eight flags. -/
theorem CC.ChangesOnly.all (p q : Byte) : CC.ChangesOnly [.e, .f, .h, .i, .n, .z, .v, .c] p q := by
  intro k hk
  exact absurd (by cases k <;> decide) hk

/-- The form of a row that writes CC as a whole only when its operand `c` says so. -/
theorem CC.ChangesOnly.all_if {c : Prop} [Decidable c] {p q : Byte} (h : ¬c → q = p) :
    CC.ChangesOnly (if c then [.e, .f, .h, .i, .n, .z, .v, .c] else []) p q := by
  split
  next => exact .all p q
  next hc => exact .of_eq (h hc)

/-- One more flag of `fs` written. -/
theorem CC.ChangesOnly.put {fs : List Flag} {p q : Byte} (h : CC.ChangesOnly fs p q) {k : Flag} (hk : k ∈ fs) (b : Bool) :
    CC.ChangesOnly fs p (CC.put q k b) := by
  intro g hg
  have hne : g ≠ k := fun e => hg (e ▸ hk)
  rw [CC.get_put, if_neg hne, h g hg]

theorem CC.ChangesOnly.putNZVC {fs : List Flag} {p q : Byte} (h : CC.ChangesOnly fs p q)
    (hfs : [.n, .z, .v, .c] ⊆ fs) (n z v c : Bool) : CC.ChangesOnly fs p (CC.putNZVC q n z v c) :=
  (((h.put (hfs (by decide)) n).put (hfs (by decide)) z).put (hfs (by decide)) v).put (hfs (by decide)) c

theorem CC.ChangesOnly.putNZV {fs : List Flag} {p q : Byte} (h : CC.ChangesOnly fs p q)
    (hfs : [.n, .z, .v] ⊆ fs) (n z v : Bool) : CC.ChangesOnly fs p (CC.putNZV q n z v) :=
  ((h.put (hfs (by decide)) n).put (hfs (by decide)) z).put (hfs (by decide)) v

theorem CC.ChangesOnly.putNZC {fs : List Flag} {p q : Byte} (h : CC.ChangesOnly fs p q)
    (hfs : [.n, .z, .c] ⊆ fs) (n z c : Bool) : CC.ChangesOnly fs p (CC.putNZC q n z c) :=
  ((h.put (hfs (by decide)) n).put (hfs (by decide)) z).put (hfs (by decide)) c

/-! ### The flag computations -/

theorem CC.logic8_flags (cc r : Byte) : CC.ChangesOnly [.n, .z, .v] cc (CC.logic8 cc r) :=
  (CC.ChangesOnly.refl _ cc).putNZV (by decide) _ _ _

theorem CC.logic16_flags (cc : Byte) (r : Word) : CC.ChangesOnly [.n, .z, .v] cc (CC.logic16 cc r) :=
  (CC.ChangesOnly.refl _ cc).putNZV (by decide) _ _ _

theorem CC.ofSum8_flags (cc : Byte) (o : Sum8) : CC.ChangesOnly [.h, .n, .z, .v, .c] cc (CC.ofSum8 cc o) :=
  ((CC.ChangesOnly.refl _ cc).put (by decide) _).putNZVC (by decide) _ _ _ _

theorem CC.ofAlu8_flags (cc : Byte) (h : Bool) (o : Alu8) : CC.ChangesOnly [.h, .n, .z, .v, .c] cc (CC.ofAlu8 cc h o) :=
  ((CC.ChangesOnly.refl _ cc).put (by decide) _).putNZVC (by decide) _ _ _ _

theorem CC.ofAlu16_flags (cc : Byte) (o : Alu16) : CC.ChangesOnly [.n, .z, .v, .c] cc (CC.ofAlu16 cc o) :=
  (CC.ChangesOnly.refl _ cc).putNZVC (by decide) _ _ _ _

theorem CC.clear_flags (cc : Byte) : CC.ChangesOnly [.n, .z, .v, .c] cc (CC.clear cc) :=
  (CC.ChangesOnly.refl _ cc).putNZVC (by decide) _ _ _ _

theorem asl8_flags (h : Bool) (v cc : Byte) : CC.ChangesOnly [.h, .n, .z, .v, .c] cc (asl8 h v cc).2 :=
  ((CC.ChangesOnly.refl _ cc).put (by decide) _).putNZVC (by decide) _ _ _ _

theorem asr8_flags (h : Bool) (v cc : Byte) : CC.ChangesOnly [.h, .n, .z, .c] cc (asr8 h v cc).2 :=
  ((CC.ChangesOnly.refl _ cc).put (by decide) _).putNZC (by decide) _ _ _

theorem lsr8_flags (v cc : Byte) : CC.ChangesOnly [.n, .z, .c] cc (lsr8 v cc).2 :=
  (CC.ChangesOnly.refl _ cc).putNZC (by decide) _ _ _

theorem rol8_flags (v cc : Byte) : CC.ChangesOnly [.n, .z, .v, .c] cc (rol8 v cc).2 :=
  (CC.ChangesOnly.refl _ cc).putNZVC (by decide) _ _ _ _

theorem ror8_flags (v cc : Byte) : CC.ChangesOnly [.n, .z, .c] cc (ror8 v cc).2 :=
  (CC.ChangesOnly.refl _ cc).putNZC (by decide) _ _ _

theorem neg8_flags (h : Bool) (v cc : Byte) : CC.ChangesOnly [.h, .n, .z, .v, .c] cc (neg8 h v cc).2 :=
  CC.ofAlu8_flags cc h _

theorem com8_flags (v cc : Byte) : CC.ChangesOnly [.n, .z, .v, .c] cc (com8 v cc).2 :=
  (CC.ChangesOnly.refl _ cc).putNZVC (by decide) _ _ _ _

theorem inc8_flags (v cc : Byte) : CC.ChangesOnly [.n, .z, .v] cc (inc8 v cc).2 :=
  (CC.ChangesOnly.refl _ cc).putNZV (by decide) _ _ _

theorem dec8_flags (v cc : Byte) : CC.ChangesOnly [.n, .z, .v] cc (dec8 v cc).2 :=
  (CC.ChangesOnly.refl _ cc).putNZV (by decide) _ _ _

theorem daa8_flags (a cc : Byte) : CC.ChangesOnly [.n, .z, .v, .c] cc (daa8 a cc).2 :=
  (CC.ChangesOnly.refl _ cc).putNZVC (by decide) _ _ _ _

/-! ### Operations that leave CC -/

theorem writeByte_cc {s t : State} {a : Word} {v : Byte} (h : writeByte s a v = .ok t) : t.cc = s.cc := by
  rw [(writeByte_frame h).1]

theorem writeWord_cc {s t : State} {a v : Word} (h : writeWord s a v = .ok t) : t.cc = s.cc := by
  rw [(writeWord_frame h).1]

theorem indexedEA_cc {m : Indexed} {s u : State} {a : Word} (h : indexedEA m s = .ok (a, u)) : u.cc = s.cc := by
  rw [indexedEA_frame h]

theorem effectiveAddress_cc {m : MemOperand} {s u : State} {a : Word} (h : effectiveAddress m s = .ok (a, u)) :
    u.cc = s.cc := by
  rw [effectiveAddress_frame h]

theorem operand8_cc {src : Src8} {s u : State} {v : Byte} (h : operand8 src s = .ok (v, u)) : u.cc = s.cc := by
  rw [operand8_frame h]

theorem operand16_cc {src : Src16} {s u : State} {v : Word} (h : operand16 src s = .ok (v, u)) : u.cc = s.cc := by
  rw [operand16_frame h]

@[simp] theorem branch_cc (k : Cond) (o : Word) (s : State) : (branch k o s).cc = s.cc := by
  unfold branch
  split <;> rfl

theorem Pushed.cc {r : StackReg} {bs : List Byte} {s t : State} (h : Pushed r bs s t) : t.cc = s.cc := by
  rw [h.state]
  exact State.setSp_cc s r _

theorem push16_cc {r : StackReg} {v : Word} {s t : State} (h : push16 r v s = .ok t) : t.cc = s.cc :=
  ((Pushed.nil r s).push16 (by decide) h).cc

theorem pushList_cc {r : StackReg} {l : RegList} {s t : State} (h : Bus.plain.pushList r l s = .ok t) : t.cc = s.cc :=
  (pushList_pushed h).cc

theorem pull8_cc {r : StackReg} {s t : State} {v : Byte} (h : pull8 r s = .ok (v, t)) : t.cc = s.cc := by
  rw [(pull8_ok.1 h).2, State.setSp_cc]

theorem pull16_cc {r : StackReg} {s t : State} {v : Word} (h : pull16 r s = .ok (v, t)) : t.cc = s.cc := by
  rw [(pull16_ok.1 h).2, State.setSp_cc]

/-! ### The pull of a register list -/

theorem pullByteIf_ok {named : Bool} {r : StackReg} {set : State → Byte → State} {s t : State} :
    Bus.plain.pullByteIf named r set s = .ok t ↔
      if named then ∃ v u, pull8 r s = .ok (v, u) ∧ t = set u v else t = s := by
  cases named
  case false => exact Res.pure_ok.trans eq_comm
  case true => simp only [Bus.pullByteIf, if_true, plain_pull8, Res.bind_ok, Res.pure_ok, Prod.exists, @eq_comm _ _ t]

theorem pullWordIf_ok {named : Bool} {r : StackReg} {set : State → Word → State} {s t : State} :
    Bus.plain.pullWordIf named r set s = .ok t ↔
      if named then ∃ v u, pull16 r s = .ok (v, u) ∧ t = set u v else t = s := by
  cases named
  case false => exact Res.pure_ok.trans eq_comm
  case true => simp only [Bus.pullWordIf, if_true, plain_pull16, Res.bind_ok, Res.pure_ok, Prod.exists, @eq_comm _ _ t]

/-- A byte pulled, or not, into a register other than CC. -/
theorem pullByteIf_cc {named : Bool} {r : StackReg} {set : State → Byte → State} {s t : State}
    (h : Bus.plain.pullByteIf named r set s = .ok t) (hset : ∀ u v, (set u v).cc = u.cc) : t.cc = s.cc := by
  cases named
  case false => rw [show t = s from pullByteIf_ok.1 h]
  case true =>
    obtain ⟨v, u, hu, rfl⟩ := pullByteIf_ok.1 h
    rw [hset, pull8_cc hu]

theorem pullWordIf_cc {named : Bool} {r : StackReg} {set : State → Word → State} {s t : State}
    (h : Bus.plain.pullWordIf named r set s = .ok t) (hset : ∀ u v, (set u v).cc = u.cc) : t.cc = s.cc := by
  cases named
  case false => rw [show t = s from pullWordIf_ok.1 h]
  case true =>
    obtain ⟨v, u, hu, rfl⟩ := pullWordIf_ok.1 h
    rw [hset, pull16_cc hu]

/-- A pull of a list that does not name CC leaves it. -/
theorem pullList_cc {r : StackReg} {l : RegList} {s t : State} (hl : l.cc = false)
    (h : Bus.plain.pullList r l s = .ok t) : t.cc = s.cc := by
  simp only [Bus.pullList, Res.bind_ok] at h
  obtain ⟨s₁, hcc, s₂, ha, s₃, hb, s₄, hdp, s₅, hx, s₆, hy, s₇, hother, hpc⟩ := h
  rw [hl] at hcc
  calc t.cc = s₇.cc := pullWordIf_cc hpc fun _ _ => rfl
    _ = s₆.cc := pullWordIf_cc hother fun u v => State.loadOtherSp_cc u r v
    _ = s₅.cc := pullWordIf_cc hy fun _ _ => rfl
    _ = s₄.cc := pullWordIf_cc hx fun _ _ => rfl
    _ = s₃.cc := pullByteIf_cc hdp fun _ _ => rfl
    _ = s₂.cc := pullByteIf_cc hb fun _ _ => rfl
    _ = s₁.cc := pullByteIf_cc ha fun _ _ => rfl
    _ = s.cc := congrArg State.cc (pullByteIf_ok.1 hcc)

theorem pullList_flags {r : StackReg} {l : RegList} {s t : State} (h : Bus.plain.pullList r l s = .ok t) :
    CC.ChangesOnly (if l.cc then [.e, .f, .h, .i, .n, .z, .v, .c] else []) s.cc t.cc :=
  .all_if fun hl => pullList_cc (Bool.eq_false_iff.2 hl) h

/-! ### Register pairs -/

theorem State.setReg8_cc {r : Reg8} (hr : r ≠ .cc) (s : State) (v : Byte) : (s.setReg8 r v).cc = s.cc := by
  cases r with
  | cc => exact absurd rfl hr
  | a | b | dp => rfl

theorem transfer_flags {r1 r2 : Reg} {s t : State} (h : transfer r1 r2 s = .ok t) :
    CC.ChangesOnly (if r2 = .r8 .cc then [.e, .f, .h, .i, .n, .z, .v, .c] else []) s.cc t.cc := by
  refine .all_if fun hr => ?_
  match r1, r2 with
  | .r8 p, .r8 q =>
    obtain rfl := Except.ok.inj h
    exact State.setReg8_cc (fun e => hr (congrArg Reg.r8 e)) _ _
  | .r16 p, .r16 q =>
    obtain rfl := Except.ok.inj h
    exact State.load16_cc _ _ _
  | .r8 p, .r16 q => cases h
  | .r16 p, .r8 q => cases h

theorem exchange_flags {r1 r2 : Reg} {s t : State} (h : exchange r1 r2 s = .ok t) :
    CC.ChangesOnly (if r1 = .r8 .cc ∨ r2 = .r8 .cc then [.e, .f, .h, .i, .n, .z, .v, .c] else []) s.cc t.cc := by
  refine .all_if fun hr => ?_
  obtain ⟨hr1, hr2⟩ := not_or.1 hr
  match r1, r2 with
  | .r8 p, .r8 q =>
    obtain rfl := Except.ok.inj h
    rw [State.setReg8_cc (fun e => hr2 (congrArg Reg.r8 e)), State.setReg8_cc (fun e => hr1 (congrArg Reg.r8 e))]
  | .r16 p, .r16 q =>
    obtain rfl := Except.ok.inj h
    rw [State.load16_cc, State.load16_cc]
  | .r8 p, .r16 q => cases h
  | .r16 p, .r8 q => cases h

/-! ### An accumulator and an 8-bit operand -/

theorem addToAcc_flags {r : Acc} {src : Src8} {cin : Bool} {s t : State} (h : Bus.plain.addToAcc r src cin s = .ok t) :
    CC.ChangesOnly [.h, .n, .z, .v, .c] s.cc t.cc := by
  obtain ⟨m, u, hu, rfl⟩ := addToAcc_ok.1 h
  rw [← operand8_cc hu]
  exact CC.ofSum8_flags _ _

theorem subFromAcc_flags {r : Acc} {src : Src8} {bin : Bool} {s t : State}
    (h : Bus.plain.subFromAcc r src bin s = .ok t) : CC.ChangesOnly [.h, .n, .z, .v, .c] s.cc t.cc := by
  obtain ⟨m, u, hu, rfl⟩ := subFromAcc_ok.1 h
  rw [← operand8_cc hu]
  exact CC.ofAlu8_flags _ _ _

theorem compareAcc_flags {r : Acc} {src : Src8} {s t : State} (h : Bus.plain.compareAcc r src s = .ok t) :
    CC.ChangesOnly [.h, .n, .z, .v, .c] s.cc t.cc := by
  obtain ⟨m, u, hu, rfl⟩ := compareAcc_ok.1 h
  rw [← operand8_cc hu]
  exact CC.ofAlu8_flags _ _ _

theorem logicToAcc_flags {r : Acc} {src : Src8} {op : Byte → Byte → Byte} {s t : State}
    (h : Bus.plain.logicToAcc r src op s = .ok t) : CC.ChangesOnly [.n, .z, .v] s.cc t.cc := by
  obtain ⟨m, u, hu, rfl⟩ := logicToAcc_ok.1 h
  rw [← operand8_cc hu]
  exact CC.logic8_flags _ _

theorem bitTestAcc_flags {r : Acc} {src : Src8} {s t : State} (h : Bus.plain.bitTestAcc r src s = .ok t) :
    CC.ChangesOnly [.n, .z, .v] s.cc t.cc := by
  obtain ⟨m, u, hu, rfl⟩ := bitTestAcc_ok.1 h
  rw [← operand8_cc hu]
  exact CC.logic8_flags _ _

theorem loadAcc_flags {r : Acc} {src : Src8} {s t : State} (h : Bus.plain.loadAcc r src s = .ok t) :
    CC.ChangesOnly [.n, .z, .v] s.cc t.cc := by
  obtain ⟨m, u, hu, rfl⟩ := loadAcc_ok.1 h
  rw [← operand8_cc hu]
  exact CC.logic8_flags _ _

theorem storeAcc_flags {r : Acc} {m : MemOperand} {s t : State} (h : Bus.plain.storeAcc r m s = .ok t) :
    CC.ChangesOnly [.n, .z, .v] s.cc t.cc := by
  obtain ⟨a, u, w, hu, hw, rfl⟩ := storeAcc_ok.1 h
  rw [← effectiveAddress_cc hu, ← writeByte_cc hw]
  exact CC.logic8_flags _ _

/-! ### A single operand -/

/-- An operation on an accumulator writes the flags that the operation writes. -/
theorem modifyAcc_flags {fs : List Flag} {op : Byte → Byte → Byte × Byte}
    (hop : ∀ v cc, CC.ChangesOnly fs cc (op v cc).2) (r : Acc) (s : State) :
    CC.ChangesOnly fs s.cc (modifyAcc r op s).cc :=
  hop _ _

theorem modifyAccDrawing_flags {fs : List Flag} {op : Bool → Byte → Byte → Byte × Byte}
    (hop : ∀ h v cc, CC.ChangesOnly fs cc (op h v cc).2) (r : Acc) (s : State) :
    CC.ChangesOnly fs s.cc (modifyAccDrawing r op s).cc :=
  modifyAcc_flags (hop _) r s.draw.2

theorem modifyMem_flags {fs : List Flag} {op : Byte → Byte → Byte × Byte}
    (hop : ∀ v cc, CC.ChangesOnly fs cc (op v cc).2) {m : MemOperand} {s t : State}
    (h : Bus.plain.modifyMem m op s = .ok t) : CC.ChangesOnly fs s.cc t.cc := by
  obtain ⟨a, u, v, hu, _, hw⟩ := modifyMem_ok.1 h
  rw [← effectiveAddress_cc hu, writeByte_cc hw]
  exact hop _ _

theorem modifyMemDrawing_flags {fs : List Flag} {op : Bool → Byte → Byte → Byte × Byte}
    (hop : ∀ h v cc, CC.ChangesOnly fs cc (op h v cc).2) {m : MemOperand} {s t : State}
    (h : Bus.plain.modifyMemDrawing m op s = .ok t) : CC.ChangesOnly fs s.cc t.cc :=
  modifyMem_flags (s := s.draw.2) (hop _) h

theorem clearMem_flags {m : MemOperand} {s t : State} (h : Bus.plain.clearMem m s = .ok t) :
    CC.ChangesOnly [.n, .z, .v, .c] s.cc t.cc := by
  obtain ⟨a, u, hu, hw⟩ := clearMem_ok.1 h
  rw [← effectiveAddress_cc hu, writeByte_cc hw]
  exact CC.clear_flags _

theorem testMem_flags {m : MemOperand} {s t : State} (h : Bus.plain.testMem m s = .ok t) :
    CC.ChangesOnly [.n, .z, .v] s.cc t.cc := by
  obtain ⟨a, u, v, hu, _, rfl⟩ := testMem_ok.1 h
  rw [← effectiveAddress_cc hu]
  exact CC.logic8_flags _ _

/-! ### A 16-bit register and a 16-bit operand -/

theorem arithD_flags {op : Word → Word → Alu16} {src : Src16} {s t : State} (h : Bus.plain.arithD op src s = .ok t) :
    CC.ChangesOnly [.n, .z, .v, .c] s.cc t.cc := by
  obtain ⟨m, u, hu, rfl⟩ := arithD_ok.1 h
  rw [← operand16_cc hu]
  exact CC.ofAlu16_flags _ _

theorem compare16_flags {r : Reg16} {src : Src16} {s t : State} (h : Bus.plain.compare16 r src s = .ok t) :
    CC.ChangesOnly [.n, .z, .v, .c] s.cc t.cc := by
  obtain ⟨m, u, hu, rfl⟩ := compare16_ok.1 h
  rw [← operand16_cc hu]
  exact CC.ofAlu16_flags _ _

theorem loadReg16_flags {r : Reg16} {src : Src16} {s t : State} (h : Bus.plain.loadReg16 r src s = .ok t) :
    CC.ChangesOnly [.n, .z, .v] s.cc t.cc := by
  obtain ⟨m, u, hu, rfl⟩ := loadReg16_ok.1 h
  rw [← operand16_cc hu]
  exact CC.logic16_flags _ _

theorem storeReg16_flags {r : Reg16} {m : MemOperand} {s t : State} (h : Bus.plain.storeReg16 r m s = .ok t) :
    CC.ChangesOnly [.n, .z, .v] s.cc t.cc := by
  obtain ⟨a, u, w, hu, hw, rfl⟩ := storeReg16_ok.1 h
  rw [← effectiveAddress_cc hu, ← writeWord_cc hw]
  exact CC.logic16_flags _ _

theorem loadAddress_cc {r : Reg16} {m : Indexed} {s t : State} (h : Bus.plain.loadAddress r m s = .ok t) :
    t.cc = s.cc := by
  obtain ⟨a, u, hu, rfl⟩ := loadAddress_ok.1 h
  rw [State.load16_cc, indexedEA_cc hu]

theorem loadAddressZ_flags {r : Reg16} {m : Indexed} {s t : State} (h : Bus.plain.loadAddressZ r m s = .ok t) :
    CC.ChangesOnly [.z] s.cc t.cc := by
  obtain ⟨a, u, hu, rfl⟩ := loadAddressZ_ok.1 h
  rw [← indexedEA_cc hu]
  exact (CC.ChangesOnly.refl _ _).put (by decide) _

/-! ### Control flow and exceptions -/

theorem jump_cc {m : MemOperand} {s t : State} (h : Bus.plain.jump m s = .ok t) : t.cc = s.cc := by
  obtain ⟨a, u, hu, rfl⟩ := jump_ok.1 h
  rw [← effectiveAddress_cc hu]

theorem call_cc {target : Word} {s t : State} (h : Bus.plain.call target s = .ok t) : t.cc = s.cc := by
  obtain ⟨w, hw, rfl⟩ := call_ok.1 h
  rw [← push16_cc hw]

theorem jumpToSubroutine_cc {m : MemOperand} {s t : State} (h : Bus.plain.jumpToSubroutine m s = .ok t) :
    t.cc = s.cc := by
  obtain ⟨a, u, hu, ht⟩ := jumpToSubroutine_ok.1 h
  rw [call_cc ht, effectiveAddress_cc hu]

theorem returnFromSubroutine_cc {s t : State} (h : Bus.plain.returnFromSubroutine s = .ok t) : t.cc = s.cc := by
  obtain ⟨a, u, hu, rfl⟩ := returnFromSubroutine_ok.1 h
  rw [← pull16_cc hu]

theorem pushFrame_entire_cc {s t : State} (h : Bus.plain.pushFrame .entire s = .ok t) : t.cc = CC.put s.cc .e true :=
  pushList_cc h

/-- An entry with the entire state sets E, and the masks it is given (R301, R303). -/
theorem enterException_entire_cc {m : MaskUpdate} {ev : Event} {s t : State}
    (h : Bus.plain.enterException .entire m ev s = .ok t) : t.cc = m.apply (CC.put s.cc .e true) := by
  obtain ⟨w, target, hw, _, rfl⟩ := enterException_ok.1 h
  rw [← pushFrame_entire_cc hw]

theorem enterException_keep_flags {ev : Event} {s t : State} (h : Bus.plain.enterException .entire .keep ev s = .ok t) :
    CC.ChangesOnly [.e] s.cc t.cc := by
  rw [enterException_entire_cc h]
  exact (CC.ChangesOnly.refl _ _).put (by decide) _

theorem enterException_setIF_flags {ev : Event} {s t : State} (h : Bus.plain.enterException .entire .setIF ev s = .ok t) :
    CC.ChangesOnly [.e, .f, .i] s.cc t.cc := by
  rw [enterException_entire_cc h]
  exact (((CC.ChangesOnly.refl _ _).put (by decide) _).put (by decide) _).put (by decide) _

/-! ### The instructions -/

/-- An instruction that answers `u` outright writes the flags in which `u` differs. -/
theorem changesOnly_of_next {fs : List Flag} {p : Byte} {u t : State} {φ ρ : Type}
    (h : (Host.Outcome.next u : Host.Outcome State φ ρ) = .next t) (hu : CC.ChangesOnly fs p u.cc) :
    CC.ChangesOnly fs p t.cc := by
  obtain rfl := Host.Outcome.next.inj h
  exact hu

/-- Each instruction writes the flags of its row alone: the arms follow the shared operation that gives the meaning. -/
theorem exec_flags (i : Instr) (s t : State) (h : exec i s = .next t) :
    CC.ChangesOnly (writtenFlags i) s.cc t.cc := by
  cases i with
  | adca | adcb | adda | addb => exact addToAcc_flags (finish_next.1 h)
  | sbca | sbcb | suba | subb => exact subFromAcc_flags (finish_next.1 h)
  | cmpa | cmpb => exact compareAcc_flags (finish_next.1 h)
  | anda | andb | eora | eorb | ora | orb => exact logicToAcc_flags (finish_next.1 h)
  | bita | bitb => exact bitTestAcc_flags (finish_next.1 h)
  | lda | ldb => exact loadAcc_flags (finish_next.1 h)
  | sta | stb => exact storeAcc_flags (finish_next.1 h)
  | asla | aslb | lsla | lslb => exact changesOnly_of_next h (modifyAccDrawing_flags asl8_flags _ _)
  | asra | asrb => exact changesOnly_of_next h (modifyAccDrawing_flags asr8_flags _ _)
  | nega | negb => exact changesOnly_of_next h (modifyAccDrawing_flags neg8_flags _ _)
  | lsra | lsrb => exact changesOnly_of_next h (modifyAcc_flags lsr8_flags _ _)
  | rola | rolb => exact changesOnly_of_next h (modifyAcc_flags rol8_flags _ _)
  | rora | rorb => exact changesOnly_of_next h (modifyAcc_flags ror8_flags _ _)
  | coma | comb => exact changesOnly_of_next h (modifyAcc_flags com8_flags _ _)
  | inca | incb => exact changesOnly_of_next h (modifyAcc_flags inc8_flags _ _)
  | deca | decb => exact changesOnly_of_next h (modifyAcc_flags dec8_flags _ _)
  | daa => exact changesOnly_of_next h (modifyAcc_flags daa8_flags _ _)
  | clra | clrb => exact changesOnly_of_next h (CC.clear_flags _)
  | tsta | tstb => exact changesOnly_of_next h (CC.logic8_flags _ _)
  | asl | lsl => exact modifyMemDrawing_flags asl8_flags (finish_next.1 h)
  | asr => exact modifyMemDrawing_flags asr8_flags (finish_next.1 h)
  | neg => exact modifyMemDrawing_flags neg8_flags (finish_next.1 h)
  | lsr => exact modifyMem_flags lsr8_flags (finish_next.1 h)
  | rol => exact modifyMem_flags rol8_flags (finish_next.1 h)
  | ror => exact modifyMem_flags ror8_flags (finish_next.1 h)
  | com => exact modifyMem_flags com8_flags (finish_next.1 h)
  | inc => exact modifyMem_flags inc8_flags (finish_next.1 h)
  | dec => exact modifyMem_flags dec8_flags (finish_next.1 h)
  | clr => exact clearMem_flags (finish_next.1 h)
  | tst => exact testMem_flags (finish_next.1 h)
  | addd | subd => exact arithD_flags (finish_next.1 h)
  | cmpd | cmps | cmpu | cmpx | cmpy => exact compare16_flags (finish_next.1 h)
  | ldd | lds | ldu | ldx | ldy => exact loadReg16_flags (finish_next.1 h)
  | std | sts | stu | stx | sty => exact storeReg16_flags (finish_next.1 h)
  | leas | leau => exact .of_eq (loadAddress_cc (finish_next.1 h))
  | leax | leay => exact loadAddressZ_flags (finish_next.1 h)
  | sex => exact changesOnly_of_next h ((CC.ChangesOnly.refl _ _).putNZV (by decide) _ _ _)
  | mul => exact changesOnly_of_next h (((CC.ChangesOnly.refl _ _).put (by decide) _).put (by decide) _)
  | andcc | orcc | cwai | rti => exact .all _ _
  | tfr => exact transfer_flags (finish_next.1 h)
  | exg => exact exchange_flags (finish_next.1 h)
  | pshs | pshu => exact .of_eq (pushList_cc (finish_next.1 h))
  | puls | pulu => exact pullList_flags (finish_next.1 h)
  | swi => exact enterException_setIF_flags (finish_next.1 h)
  | swi2 | swi3 => exact enterException_keep_flags (finish_next.1 h)
  | jmp => exact .of_eq (jump_cc (finish_next.1 h))
  | jsr => exact .of_eq (jumpToSubroutine_cc (finish_next.1 h))
  | bsr | lbsr => exact .of_eq (call_cc (finish_next.1 h))
  | rts => exact .of_eq (returnFromSubroutine_cc (finish_next.1 h))
  | abx | nop | sync => exact changesOnly_of_next h (.refl _ _)
  | bcc | lbcc | bcs | lbcs | beq | lbeq | bge | lbge | bgt | lbgt | bhi | lbhi | bhs | lbhs | ble | lble | blo | lblo
  | bls | lbls | blt | lblt | bmi | lbmi | bne | lbne | bpl | lbpl | bra | lbra | brn | lbrn | bvc | lbvc | bvs | lbvs =>
    exact changesOnly_of_next h (.of_eq (branch_cc _ _ _))

/-- Settles O13: the arms of `exec_flags` are the rows of the table `writtenFlags`. -/
theorem flagFrame : Obligations.FlagFrame := exec_flags

end Sys2Proof.Machine
end

section
/-! PROOFS. The frame of the registers and of the hidden state (spec/10_state.md R20 to R26, R35): which registers each
operation may change and whether it loads S, then the tables of the instructions; and the state after reset. -/

namespace Sys2Proof.Machine

/-! ### Which registers and which hidden state change -/

/-- From `p` to `q` no register outside `rs` changes (CC and PC apart); NMI becomes armed if `loads` and stays as it was
otherwise; `run_state` becomes `wait` if one is given; every other hidden item is as before. -/
structure Touches (rs : List Reg) (p q : State) (loads : Bool := false) (wait : Option RunState := none) : Prop where
  a : Reg.r8 .a ∉ rs → q.a = p.a
  b : Reg.r8 .b ∉ rs → q.b = p.b
  dp : Reg.r8 .dp ∉ rs → q.dp = p.dp
  x : Reg.r16 .x ∉ rs → q.x = p.x
  y : Reg.r16 .y ∉ rs → q.y = p.y
  u : Reg.r16 .u ∉ rs → q.u = p.u
  s : Reg.r16 .s ∉ rs → q.s = p.s
  nmiArmed : q.nmiArmed = (p.nmiArmed || loads)
  runState : q.runState = wait.getD p.runState
  nmiPending : q.nmiPending = p.nmiPending
  irqIn : q.irqIn = p.irqIn
  platform : q.platform = p.platform

section
variable {rs rs' : List Reg} {p q : State} {loads loads' : Bool} {wait : Option RunState}

theorem Touches.reg8 (h : Touches rs p q loads wait) {r : Reg8} (hcc : r ≠ .cc) (hr : Reg.r8 r ∉ rs) :
    q.reg8 r = p.reg8 r := by
  cases r with
  | a => exact h.a hr
  | b => exact h.b hr
  | cc => exact absurd rfl hcc
  | dp => exact h.dp hr

theorem Touches.reg16 (h : Touches rs p q loads wait) {r : Reg16} (hpc : r ≠ .pc) (hd : r ≠ .d)
    (hr : Reg.r16 r ∉ rs) : q.reg16 r = p.reg16 r := by
  cases r with
  | d => exact absurd rfl hd
  | x => exact h.x hr
  | y => exact h.y hr
  | u => exact h.u hr
  | s => exact h.s hr
  | pc => exact absurd rfl hpc

theorem Touches.refl (rs : List Reg) (p : State) : Touches rs p p where
  a := fun _ => rfl
  b := fun _ => rfl
  dp := fun _ => rfl
  x := fun _ => rfl
  y := fun _ => rfl
  u := fun _ => rfl
  s := fun _ => rfl
  nmiArmed := (Bool.or_false _).symm
  runState := rfl
  nmiPending := rfl
  irqIn := rfl
  platform := rfl

theorem Touches.mono (h : Touches rs p q loads wait) (hrs : rs ⊆ rs') : Touches rs' p q loads wait :=
  { h with
    a := fun hr => h.a fun hm => hr (hrs hm)
    b := fun hr => h.b fun hm => hr (hrs hm)
    dp := fun hr => h.dp fun hm => hr (hrs hm)
    x := fun hr => h.x fun hm => hr (hrs hm)
    y := fun hr => h.y fun hm => hr (hrs hm)
    u := fun hr => h.u fun hm => hr (hrs hm)
    s := fun hr => h.s fun hm => hr (hrs hm) }

theorem Touches.trans {o : State} (h : Touches rs o p loads) (h' : Touches rs p q loads') :
    Touches rs o q (loads || loads') where
  a := fun hr => (h'.a hr).trans (h.a hr)
  b := fun hr => (h'.b hr).trans (h.b hr)
  dp := fun hr => (h'.dp hr).trans (h.dp hr)
  x := fun hr => (h'.x hr).trans (h.x hr)
  y := fun hr => (h'.y hr).trans (h.y hr)
  u := fun hr => (h'.u hr).trans (h.u hr)
  s := fun hr => (h'.s hr).trans (h.s hr)
  nmiArmed := by rw [h'.nmiArmed, h.nmiArmed, Bool.or_assoc]
  runState := h'.runState.trans h.runState
  nmiPending := h'.nmiPending.trans h.nmiPending
  irqIn := h'.irqIn.trans h.irqIn
  platform := h'.platform.trans h.platform

/-! ### Writes -/

/-- CC, PC, memory and the counter of free values are none of what `Touches` speaks of. -/
theorem Touches.withRest (h : Touches rs p q loads wait) (cc : Byte) (pc : Word) (mem : Memory) (draws : Nat) :
    Touches rs p { q with cc := cc, pc := pc, mem := mem, draws := draws } loads wait :=
  ⟨h.a, h.b, h.dp, h.x, h.y, h.u, h.s, h.nmiArmed, h.runState, h.nmiPending, h.irqIn, h.platform⟩

/-- The state in which a wait starts (R130, R226). -/
theorem Touches.waiting (h : Touches rs p q loads) (w : RunState) :
    Touches rs p { q with runState := w } loads (some w) :=
  { h with runState := rfl }

/-- An accumulator as a register of the inventory (R20, R21). -/
def Acc.reg : Acc → Reg
  | .a => .r8 .a
  | .b => .r8 .b

/-- A base register as a register of the inventory (R20, R68). -/
def baseReg : IndexReg → Reg
  | .x => .r16 .x
  | .y => .r16 .y
  | .u => .r16 .u
  | .s => .r16 .s

/-- A stack pointer as a register of the inventory (R20, R24). -/
def StackReg.reg : StackReg → Reg
  | .s => .r16 .s
  | .u => .r16 .u

/-- The stack pointer that bit 6 of a register list names (R84). -/
def StackReg.otherReg : StackReg → Reg
  | .s => .r16 .u
  | .u => .r16 .s

theorem Touches.setReg8 (h : Touches rs p q loads wait) {r : Reg8} (hr : Reg.r8 r ∈ rs) (v : Byte) :
    Touches rs p (q.setReg8 r v) loads wait := by
  cases r with
  | a => exact { h with a := absurd hr }
  | b => exact { h with b := absurd hr }
  | cc => exact h.withRest _ _ _ _
  | dp => exact { h with dp := absurd hr }

theorem Touches.setAcc (h : Touches rs p q loads wait) {r : Acc} (hr : r.reg ∈ rs) (v : Byte) :
    Touches rs p (q.setAcc r v) loads wait := by
  cases r with
  | a => exact h.setReg8 (r := .a) hr v
  | b => exact h.setReg8 (r := .b) hr v

theorem Touches.setD (h : Touches rs p q loads wait) (hr : regParts (.r16 .d) ⊆ rs) (v : Word) :
    Touches rs p (q.setD v) loads wait :=
  (h.setReg8 (r := .a) (hr (by decide)) (hiByte v)).setReg8 (r := .b) (hr (by decide)) (loByte v)

theorem Touches.setIndex (h : Touches rs p q loads wait) {r : IndexReg} (hr : baseReg r ∈ rs) (v : Word) :
    Touches rs p (q.setIndex r v) loads wait := by
  cases r with
  | x => exact { h with x := absurd hr }
  | y => exact { h with y := absurd hr }
  | u => exact { h with u := absurd hr }
  | s => exact { h with s := absurd hr }

theorem Touches.setSp (h : Touches rs p q loads wait) {r : StackReg} (hr : r.reg ∈ rs) (v : Word) :
    Touches rs p (q.setSp r v) loads wait := by
  cases r with
  | s => exact h.setIndex (r := .s) hr v
  | u => exact h.setIndex (r := .u) hr v

/-- A load of S, and of no other 16-bit register, arms NMI (R309). -/
theorem Touches.load16 (h : Touches rs p q loads) {r : Reg16} (hr : regParts (.r16 r) ⊆ rs) (v : Word) :
    Touches rs p (q.load16 r v) (loads || decide (r = .s)) := by
  refine h.trans ?_
  cases r with
  | d => exact (Touches.refl rs q).setD hr v
  | x => exact (Touches.refl rs q).setIndex (r := .x) (hr (List.mem_singleton_self _)) v
  | y => exact (Touches.refl rs q).setIndex (r := .y) (hr (List.mem_singleton_self _)) v
  | u => exact (Touches.refl rs q).setIndex (r := .u) (hr (List.mem_singleton_self _)) v
  | s =>
    have hs := (Touches.refl rs q).setIndex (r := .s) (hr (List.mem_singleton_self _)) v
    exact { hs with nmiArmed := (Bool.or_true _).symm }
  | pc => exact (Touches.refl rs q).withRest _ _ _ _

/-- Of the pulls of the other stack pointer that of S arms NMI (R309). -/
theorem Touches.loadOtherSp {r : StackReg} (hr : r.otherReg ∈ rs) (q : State) (v : Word) :
    Touches rs q (q.loadOtherSp r v) (decide (r = .u)) := by
  cases r with
  | s => exact (Touches.refl rs q).load16 (r := .u) (List.cons_subset.2 ⟨hr, List.nil_subset _⟩) v
  | u => exact (Touches.refl rs q).load16 (r := .s) (List.cons_subset.2 ⟨hr, List.nil_subset _⟩) v

end

/-! ### Memory and operands -/

theorem writeByte_touches {s t : State} {a : Word} {v : Byte} (h : writeByte s a v = .ok t) (rs : List Reg) :
    Touches rs s t := by
  rw [(writeByte_frame h).1]
  exact (Touches.refl rs s).withRest _ _ _ _

theorem writeWord_touches {s t : State} {a v : Word} (h : writeWord s a v = .ok t) (rs : List Reg) :
    Touches rs s t := by
  rw [(writeWord_frame h).1]
  exact (Touches.refl rs s).withRest _ _ _ _

/-- Only auto increment and decrement change a register, their base (R75, R76). -/
theorem indexedBase_touches (m : Indexed) (s : State) : Touches (indexedUpdates m) s (indexedBase m s).2 := by
  cases m with
  | postInc1 r | postInc2 r _ | preDec1 r | preDec2 r _ =>
    refine (Touches.refl _ s).setIndex (r := r) ?_ _
    cases r <;> exact List.mem_singleton_self _
  | offset5 | noOffset | accB | accA | offset8 | offset16 | accD | pcr8 | pcr16 | extIndirect => exact .refl _ s

theorem indexedEA_touches {m : Indexed} {s u : State} {a : Word} (h : indexedEA m s = .ok (a, u)) :
    Touches (indexedUpdates m) s u := by
  rw [(indexedEA_ok.1 h).1]
  exact indexedBase_touches m s

theorem effectiveAddress_touches {m : MemOperand} {s u : State} {a : Word}
    (h : effectiveAddress m s = .ok (a, u)) : Touches (memUpdates m) s u := by
  cases m with
  | direct d => obtain ⟨_, rfl⟩ := Prod.mk.inj (Except.ok.inj h); exact .refl _ _
  | indexed i => exact indexedEA_touches h
  | extended d => obtain ⟨_, rfl⟩ := Prod.mk.inj (Except.ok.inj h); exact .refl _ _

theorem operand8_mem_ok {m : MemOperand} {s u : State} {v : Byte} :
    operand8 (.mem m) s = .ok (v, u) ↔ ∃ a, effectiveAddress m s = .ok (a, u) ∧ readByte u a = .ok v := by
  simp only [operand8, Bus.operand8, plain_effectiveAddress, plain_read, Res.bind_ok, Res.pure_ok, Prod.exists,
    Prod.mk.injEq]
  constructor
  · rintro ⟨a, w, hw, v, hv, rfl, rfl⟩; exact ⟨a, hw, hv⟩
  · rintro ⟨a, hw, hv⟩; exact ⟨a, u, hw, v, hv, rfl, rfl⟩

theorem operand16_mem_ok {m : MemOperand} {s u : State} {v : Word} :
    operand16 (.mem m) s = .ok (v, u) ↔ ∃ a, effectiveAddress m s = .ok (a, u) ∧ readWord u a = .ok v := by
  simp only [operand16, Bus.operand16, plain_effectiveAddress, plain_readWord, Res.bind_ok, Res.pure_ok, Prod.exists,
    Prod.mk.injEq]
  constructor
  · rintro ⟨a, w, hw, v, hv, rfl, rfl⟩; exact ⟨a, hw, hv⟩
  · rintro ⟨a, hw, hv⟩; exact ⟨a, u, hw, v, hv, rfl, rfl⟩

theorem operand8_touches {src : Src8} {s u : State} {v : Byte} (h : operand8 src s = .ok (v, u)) :
    Touches (src8Updates src) s u := by
  cases src with
  | imm _ => obtain ⟨_, rfl⟩ := Prod.mk.inj (Except.ok.inj h); exact .refl _ _
  | mem m =>
    obtain ⟨a, hu, _⟩ := operand8_mem_ok.1 h
    exact effectiveAddress_touches hu

theorem operand16_touches {src : Src16} {s u : State} {v : Word} (h : operand16 src s = .ok (v, u)) :
    Touches (src16Updates src) s u := by
  cases src with
  | imm _ => obtain ⟨_, rfl⟩ := Prod.mk.inj (Except.ok.inj h); exact .refl _ _
  | mem m =>
    obtain ⟨a, hu, _⟩ := operand16_mem_ok.1 h
    exact effectiveAddress_touches hu

/-! ### An accumulator and an 8-bit operand -/

/-- An operand, then an accumulator and CC. -/
theorem setAcc_operand8_touches {src : Src8} {s u : State} {m : Byte} (hu : operand8 src s = .ok (m, u)) (r : Acc)
    (v cc : Byte) : Touches ([r.reg] ++ src8Updates src) s { u.setAcc r v with cc := cc } :=
  (((operand8_touches hu).mono (List.subset_append_right _ _)).setAcc List.mem_cons_self v).withRest _ _ _ _

theorem addToAcc_touches {r : Acc} {src : Src8} {cin : Bool} {s t : State}
    (h : Bus.plain.addToAcc r src cin s = .ok t) : Touches ([r.reg] ++ src8Updates src) s t := by
  obtain ⟨m, u, hu, rfl⟩ := addToAcc_ok.1 h
  exact setAcc_operand8_touches hu r _ _

theorem subFromAcc_touches {r : Acc} {src : Src8} {bin : Bool} {s t : State}
    (h : Bus.plain.subFromAcc r src bin s = .ok t) : Touches ([r.reg] ++ src8Updates src) s t := by
  obtain ⟨m, u, hu, rfl⟩ := subFromAcc_ok.1 h
  have hd : Touches ([r.reg] ++ src8Updates src) s u.draw.2 :=
    ((operand8_touches hu).mono (List.subset_append_right _ _)).withRest _ _ _ _
  exact (hd.setAcc List.mem_cons_self _).withRest _ _ _ _

theorem compareAcc_touches {r : Acc} {src : Src8} {s t : State} (h : Bus.plain.compareAcc r src s = .ok t) :
    Touches (src8Updates src) s t := by
  obtain ⟨m, u, hu, rfl⟩ := compareAcc_ok.1 h
  exact (operand8_touches hu).withRest _ _ _ _

theorem logicToAcc_touches {r : Acc} {src : Src8} {op : Byte → Byte → Byte} {s t : State}
    (h : Bus.plain.logicToAcc r src op s = .ok t) : Touches ([r.reg] ++ src8Updates src) s t := by
  obtain ⟨m, u, hu, rfl⟩ := logicToAcc_ok.1 h
  exact setAcc_operand8_touches hu r _ _

theorem bitTestAcc_touches {r : Acc} {src : Src8} {s t : State} (h : Bus.plain.bitTestAcc r src s = .ok t) :
    Touches (src8Updates src) s t := by
  obtain ⟨m, u, hu, rfl⟩ := bitTestAcc_ok.1 h
  exact (operand8_touches hu).withRest _ _ _ _

theorem loadAcc_touches {r : Acc} {src : Src8} {s t : State} (h : Bus.plain.loadAcc r src s = .ok t) :
    Touches ([r.reg] ++ src8Updates src) s t := by
  obtain ⟨m, u, hu, rfl⟩ := loadAcc_ok.1 h
  exact setAcc_operand8_touches hu r _ _

theorem storeAcc_touches {r : Acc} {m : MemOperand} {s t : State} (h : Bus.plain.storeAcc r m s = .ok t) :
    Touches (memUpdates m) s t := by
  obtain ⟨a, u, w, hu, hw, rfl⟩ := storeAcc_ok.1 h
  exact ((effectiveAddress_touches hu).trans (writeByte_touches hw _)).withRest _ _ _ _

/-! ### A single operand -/

theorem setAcc_touches (r : Acc) (v cc : Byte) (s : State) : Touches [r.reg] s { s.setAcc r v with cc := cc } :=
  ((Touches.refl _ s).setAcc (List.mem_singleton_self _) v).withRest _ _ _ _

theorem modifyAcc_touches (r : Acc) (op : Byte → Byte → Byte × Byte) (s : State) :
    Touches [r.reg] s (modifyAcc r op s) :=
  setAcc_touches r _ _ s

theorem draw_touches (rs : List Reg) (s : State) : Touches rs s s.draw.2 :=
  (Touches.refl rs s).withRest _ _ _ _

theorem modifyAccDrawing_touches (r : Acc) (op : Bool → Byte → Byte → Byte × Byte) (s : State) :
    Touches [r.reg] s (modifyAccDrawing r op s) :=
  (draw_touches _ s).trans (modifyAcc_touches r _ s.draw.2)

theorem modifyMem_touches {m : MemOperand} {op : Byte → Byte → Byte × Byte} {s t : State}
    (h : Bus.plain.modifyMem m op s = .ok t) : Touches (memUpdates m) s t := by
  obtain ⟨a, u, v, hu, _, hw⟩ := modifyMem_ok.1 h
  exact ((effectiveAddress_touches hu).withRest _ _ _ _).trans (writeByte_touches hw _)

theorem modifyMemDrawing_touches {m : MemOperand} {op : Bool → Byte → Byte → Byte × Byte} {s t : State}
    (h : Bus.plain.modifyMemDrawing m op s = .ok t) : Touches (memUpdates m) s t :=
  (draw_touches _ s).trans (modifyMem_touches h)

theorem clearMem_touches {m : MemOperand} {s t : State} (h : Bus.plain.clearMem m s = .ok t) :
    Touches (memUpdates m) s t := by
  obtain ⟨a, u, hu, hw⟩ := clearMem_ok.1 h
  exact ((effectiveAddress_touches hu).withRest _ _ _ _).trans (writeByte_touches hw _)

theorem testMem_touches {m : MemOperand} {s t : State} (h : Bus.plain.testMem m s = .ok t) :
    Touches (memUpdates m) s t := by
  obtain ⟨a, u, v, hu, _, rfl⟩ := testMem_ok.1 h
  exact (effectiveAddress_touches hu).withRest _ _ _ _

/-! ### A 16-bit register and a 16-bit operand -/

theorem arithD_touches {op : Word → Word → Alu16} {src : Src16} {s t : State}
    (h : Bus.plain.arithD op src s = .ok t) : Touches (regParts (.r16 .d) ++ src16Updates src) s t := by
  obtain ⟨m, u, hu, rfl⟩ := arithD_ok.1 h
  have hu' := (operand16_touches hu).mono (List.subset_append_right (regParts (.r16 .d)) _)
  exact (hu'.setD (List.subset_append_left _ _) _).withRest _ _ _ _

theorem compare16_touches {r : Reg16} {src : Src16} {s t : State} (h : Bus.plain.compare16 r src s = .ok t) :
    Touches (src16Updates src) s t := by
  obtain ⟨m, u, hu, rfl⟩ := compare16_ok.1 h
  exact (operand16_touches hu).withRest _ _ _ _

theorem loadReg16_touches {r : Reg16} {src : Src16} {s t : State} (h : Bus.plain.loadReg16 r src s = .ok t) :
    Touches (regParts (.r16 r) ++ src16Updates src) s t (decide (r = .s)) := by
  obtain ⟨m, u, hu, rfl⟩ := loadReg16_ok.1 h
  have hu' := (operand16_touches hu).mono (List.subset_append_right (regParts (.r16 r)) _)
  exact (hu'.load16 (List.subset_append_left _ _) _).withRest _ _ _ _

theorem storeReg16_touches {r : Reg16} {m : MemOperand} {s t : State} (h : Bus.plain.storeReg16 r m s = .ok t) :
    Touches (memUpdates m) s t := by
  obtain ⟨a, u, w, hu, hw, rfl⟩ := storeReg16_ok.1 h
  exact ((effectiveAddress_touches hu).trans (writeWord_touches hw _)).withRest _ _ _ _

/-- An address formed, then loaded into a register. -/
theorem load16_indexedEA_touches {m : Indexed} {s u : State} {a : Word} (hu : indexedEA m s = .ok (a, u)) (r : Reg16) :
    Touches (regParts (.r16 r) ++ indexedUpdates m) s (u.load16 r a) (decide (r = .s)) :=
  ((indexedEA_touches hu).mono (List.subset_append_right _ _)).load16 (List.subset_append_left _ _) a

theorem loadAddress_touches {r : Reg16} {m : Indexed} {s t : State} (h : Bus.plain.loadAddress r m s = .ok t) :
    Touches (regParts (.r16 r) ++ indexedUpdates m) s t (decide (r = .s)) := by
  obtain ⟨a, u, hu, rfl⟩ := loadAddress_ok.1 h
  exact load16_indexedEA_touches hu r

theorem loadAddressZ_touches {r : Reg16} {m : Indexed} {s t : State} (h : Bus.plain.loadAddressZ r m s = .ok t) :
    Touches (regParts (.r16 r) ++ indexedUpdates m) s t (decide (r = .s)) := by
  obtain ⟨a, u, hu, rfl⟩ := loadAddressZ_ok.1 h
  exact (load16_indexedEA_touches hu r).withRest _ _ _ _

/-! ### Register pairs -/

theorem transfer_touches {r1 r2 : Reg} {s t : State} (h : transfer r1 r2 s = .ok t) :
    Touches (regParts r2) s t (decide (r2 = .r16 .s)) := by
  match r1, r2 with
  | .r8 p, .r8 q =>
    obtain rfl := Except.ok.inj h
    exact (Touches.refl _ s).setReg8 (List.mem_singleton_self _) _
  | .r16 p, .r16 q =>
    obtain rfl := Except.ok.inj h
    simpa using (Touches.refl _ s).load16 (List.Subset.refl (regParts (.r16 q))) (s.reg16 p)
  | .r8 p, .r16 q => cases h
  | .r16 p, .r8 q => cases h

theorem exchange_touches {r1 r2 : Reg} {s t : State} (h : exchange r1 r2 s = .ok t) :
    Touches (regParts r1 ++ regParts r2) s t (decide (r1 = .r16 .s ∨ r2 = .r16 .s)) := by
  match r1, r2 with
  | .r8 p, .r8 q =>
    obtain rfl := Except.ok.inj h
    have hp := (Touches.refl (regParts (.r8 p) ++ regParts (.r8 q)) s).setReg8 List.mem_cons_self (s.reg8 q)
    exact hp.setReg8 (List.mem_append_right (regParts (.r8 p)) (List.mem_singleton_self _)) (s.reg8 p)
  | .r16 p, .r16 q =>
    obtain rfl := Except.ok.inj h
    have hp := (Touches.refl _ s).load16 (List.subset_append_left (regParts (.r16 p)) (regParts (.r16 q))) (s.reg16 q)
    have hq := hp.load16 (List.subset_append_right (regParts (.r16 p)) (regParts (.r16 q))) (s.reg16 p)
    simpa using hq
  | .r8 p, .r16 q => cases h
  | .r16 p, .r8 q => cases h

/-! ### The stacks -/

theorem Pushed.touches {r : StackReg} {bs : List Byte} {s t : State} (h : Pushed r bs s t) : Touches [r.reg] s t := by
  rw [h.state]
  exact ((Touches.refl _ s).setSp (List.mem_singleton_self _) _).withRest _ _ _ _

theorem push16_touches {r : StackReg} {v : Word} {s t : State} (h : push16 r v s = .ok t) : Touches [r.reg] s t :=
  ((Pushed.nil r s).push16 (by decide) h).touches

theorem pushList_touches {r : StackReg} {l : RegList} {s t : State} (h : Bus.plain.pushList r l s = .ok t) :
    Touches [r.reg] s t :=
  (pushList_pushed h).touches

theorem pull8_touches {rs : List Reg} {r : StackReg} {s t : State} {v : Byte} (h : pull8 r s = .ok (v, t))
    (hr : r.reg ∈ rs) : Touches rs s t := by
  rw [(pull8_ok.1 h).2]
  exact (Touches.refl _ s).setSp hr _

theorem pull16_touches {rs : List Reg} {r : StackReg} {s t : State} {v : Word} (h : pull16 r s = .ok (v, t))
    (hr : r.reg ∈ rs) : Touches rs s t := by
  rw [(pull16_ok.1 h).2]
  exact (Touches.refl _ s).setSp hr _

/-- A byte pulled, or not, into a register that the list then names. -/
theorem pullByteIf_touches {rs : List Reg} {named : Bool} {r : StackReg} {set : State → Byte → State} {s t : State}
    (h : Bus.plain.pullByteIf named r set s = .ok t) (hr : r.reg ∈ rs)
    (hset : named = true → ∀ u v, Touches rs u (set u v)) : Touches rs s t := by
  cases named
  case false =>
    rw [show t = s from pullByteIf_ok.1 h]
    exact .refl rs s
  case true =>
    obtain ⟨v, u, hu, rfl⟩ := pullByteIf_ok.1 h
    exact (pull8_touches hu hr).trans (hset rfl u v)

/-- A word pulled, or not; NMI becomes armed where the word is and its register is S. -/
theorem pullWordIf_touches {rs : List Reg} {named loads : Bool} {r : StackReg} {set : State → Word → State}
    {s t : State} (h : Bus.plain.pullWordIf named r set s = .ok t) (hr : r.reg ∈ rs)
    (hset : named = true → ∀ u v, Touches rs u (set u v) loads) : Touches rs s t (loads && named) := by
  cases named
  case false =>
    rw [show t = s from pullWordIf_ok.1 h, Bool.and_false]
    exact .refl rs s
  case true =>
    obtain ⟨v, u, hu, rfl⟩ := pullWordIf_ok.1 h
    rw [Bool.and_true]
    exact (pull16_touches hu hr).trans (hset rfl u v)

/-- A pull of a list changes its own pointer and the registers named, and arms NMI if it pulls S (R200, R201, R309). -/
theorem pullList_touches {r : StackReg} {l : RegList} {s t : State} (h : Bus.plain.pullList r l s = .ok t) :
    Touches (namedRegisters l r.reg r.otherReg) s t (decide (r = .u) && l.other) := by
  simp only [Bus.pullList, Res.bind_ok] at h
  obtain ⟨s₁, hcc, s₂, ha, s₃, hb, s₄, hdp, s₅, hx, s₆, hy, s₇, hother, hpc⟩ := h
  have own : r.reg ∈ namedRegisters l r.reg r.otherReg := List.mem_cons_self
  have t₁ := pullByteIf_touches hcc own fun _ u v => (Touches.refl _ u).withRest v _ _ _
  have t₂ := pullByteIf_touches ha own fun hl u v =>
    (Touches.refl _ u).setReg8 (r := .a) (by simp [namedRegisters, hl]) v
  have t₃ := pullByteIf_touches hb own fun hl u v =>
    (Touches.refl _ u).setReg8 (r := .b) (by simp [namedRegisters, hl]) v
  have t₄ := pullByteIf_touches hdp own fun hl u v =>
    (Touches.refl _ u).setReg8 (r := .dp) (by simp [namedRegisters, hl]) v
  have t₅ := pullWordIf_touches hx own fun hl u v =>
    (Touches.refl _ u).setIndex (r := .x) (by simp [baseReg, namedRegisters, hl]) v
  have t₆ := pullWordIf_touches hy own fun hl u v =>
    (Touches.refl _ u).setIndex (r := .y) (by simp [baseReg, namedRegisters, hl]) v
  have t₇ := pullWordIf_touches hother own fun hl u v =>
    Touches.loadOtherSp (by simp [namedRegisters, hl]) u v
  have t₈ := pullWordIf_touches hpc own fun _ u v => (Touches.refl _ u).withRest _ v _ _
  simpa using ((((((t₁.trans t₂).trans t₃).trans t₄).trans t₅).trans t₆).trans t₇).trans t₈

/-! ### Control flow and exceptions -/

theorem branch_touches (k : Cond) (o : Word) (s : State) : Touches [] s (branch k o s) := by
  unfold branch
  split
  next => exact (Touches.refl _ s).withRest _ _ _ _
  next => exact .refl _ s

theorem jump_touches {m : MemOperand} {s t : State} (h : Bus.plain.jump m s = .ok t) : Touches (memUpdates m) s t := by
  obtain ⟨a, u, hu, rfl⟩ := jump_ok.1 h
  exact (effectiveAddress_touches hu).withRest _ _ _ _

theorem call_touches {target : Word} {s t : State} (h : Bus.plain.call target s = .ok t) : Touches [.r16 .s] s t := by
  obtain ⟨w, hw, rfl⟩ := call_ok.1 h
  exact (push16_touches hw).withRest _ _ _ _

theorem jumpToSubroutine_touches {m : MemOperand} {s t : State} (h : Bus.plain.jumpToSubroutine m s = .ok t) :
    Touches ([.r16 .s] ++ memUpdates m) s t := by
  obtain ⟨a, u, hu, ht⟩ := jumpToSubroutine_ok.1 h
  have hu' := (effectiveAddress_touches hu).mono (List.subset_append_right [.r16 .s] _)
  exact hu'.trans ((call_touches ht).mono (List.subset_append_left _ _))

theorem returnFromSubroutine_touches {s t : State} (h : Bus.plain.returnFromSubroutine s = .ok t) :
    Touches [.r16 .s] s t := by
  obtain ⟨a, u, hu, rfl⟩ := returnFromSubroutine_ok.1 h
  exact (pull16_touches hu (List.mem_singleton_self _)).withRest _ _ _ _

/-- The stacking of the entire state moves S and writes E. -/
theorem pushFrame_entire_touches {s t : State} (h : Bus.plain.pushFrame .entire s = .ok t) : Touches [.r16 .s] s t :=
  Touches.trans ((Touches.refl _ s).withRest _ _ _ _) (pushList_touches h)

theorem enterException_entire_touches {m : MaskUpdate} {ev : Event} {s t : State}
    (h : Bus.plain.enterException .entire m ev s = .ok t) : Touches [.r16 .s] s t := by
  obtain ⟨w, target, hw, _, rfl⟩ := enterException_ok.1 h
  exact (pushFrame_entire_touches hw).withRest _ _ _ _

theorem waitForInterrupt_touches {m : Byte} {s t : State} (h : Bus.plain.waitForInterrupt m s = .ok t) :
    Touches [.r16 .s] s t false (some .cwaiWait) := by
  obtain ⟨w, hw, rfl⟩ := waitForInterrupt_ok.1 h
  exact (Touches.trans ((Touches.refl _ s).withRest _ _ _ _) (pushFrame_entire_touches hw)).waiting _

/-- RTI pulls into every register of the inventory, and its S arms no NMI (R208, R309). -/
theorem returnFromException_touches {s t : State} (h : Bus.plain.returnFromException s = .ok t) :
    Touches [.r16 .s, .r8 .a, .r8 .b, .r8 .dp, .r16 .x, .r16 .y, .r16 .u] s t := by
  obtain ⟨cc, w, hw, h⟩ := returnFromException_ok.1 h
  have hcc : Touches [.r16 .s, .r8 .a, .r8 .b, .r8 .dp, .r16 .x, .r16 .y, .r16 .u] s { w with cc := cc } :=
    (pull8_touches hw List.mem_cons_self).withRest _ _ _ _
  rcases h with ⟨_, hall⟩ | ⟨_, a, u, hu, rfl⟩
  · exact hcc.trans ((pullList_touches hall).mono (by decide))
  · exact (hcc.trans (pull16_touches hu List.mem_cons_self)).withRest _ _ _ _

/-! ### The instructions -/

/-- The wait that an instruction starts (R130, R226). -/
def startedWait : Instr → Option RunState
  | .cwai _ => some .cwaiWait
  | .sync => some .syncWait
  | _ => none

/-- An instruction that answers `u` outright touches what `u` differs in. -/
theorem touches_of_next {rs : List Reg} {loads : Bool} {wait : Option RunState} {s u t : State} {φ ρ : Type}
    (h : (Host.Outcome.next u : Host.Outcome State φ ρ) = .next t) (hu : Touches rs s u loads wait) :
    Touches rs s t loads wait := by
  obtain rfl := Host.Outcome.next.inj h
  exact hu

/-- Each instruction touches the registers and the hidden state of its rows alone: the arms follow the shared operation
that gives the meaning. -/
theorem exec_touches (i : Instr) (s t : State) (h : exec i s = .next t) :
    Touches (writtenRegisters i) s t (loadsS i) (startedWait i) := by
  cases i with
  | adca | adcb | adda | addb => exact addToAcc_touches (finish_next.1 h)
  | sbca | sbcb | suba | subb => exact subFromAcc_touches (finish_next.1 h)
  | cmpa | cmpb => exact compareAcc_touches (finish_next.1 h)
  | anda | andb | eora | eorb | ora | orb => exact logicToAcc_touches (finish_next.1 h)
  | bita | bitb => exact bitTestAcc_touches (finish_next.1 h)
  | lda | ldb => exact loadAcc_touches (finish_next.1 h)
  | sta | stb => exact storeAcc_touches (finish_next.1 h)
  | asla | lsla | asra | nega => exact touches_of_next h (modifyAccDrawing_touches .a _ s)
  | aslb | lslb | asrb | negb => exact touches_of_next h (modifyAccDrawing_touches .b _ s)
  | lsra | rola | rora | coma | inca | deca | daa => exact touches_of_next h (modifyAcc_touches .a _ s)
  | lsrb | rolb | rorb | comb | incb | decb => exact touches_of_next h (modifyAcc_touches .b _ s)
  | clra | sex => exact touches_of_next h (setAcc_touches .a _ _ s)
  | clrb => exact touches_of_next h (setAcc_touches .b _ _ s)
  | mul => exact touches_of_next h (((Touches.refl _ s).setD (List.Subset.refl _) _).withRest _ _ _ _)
  | abx => exact touches_of_next h ((Touches.refl _ s).setIndex (r := .x) (List.mem_singleton_self _) _)
  | andcc | orcc | tsta | tstb => exact touches_of_next h ((Touches.refl _ s).withRest _ _ _ _)
  | asl | lsl | asr | neg => exact modifyMemDrawing_touches (finish_next.1 h)
  | lsr | rol | ror | com | inc | dec => exact modifyMem_touches (finish_next.1 h)
  | clr => exact clearMem_touches (finish_next.1 h)
  | tst => exact testMem_touches (finish_next.1 h)
  | addd | subd => exact arithD_touches (finish_next.1 h)
  | cmpd | cmps | cmpu | cmpx | cmpy => exact compare16_touches (finish_next.1 h)
  | ldd | lds | ldu | ldx | ldy => exact loadReg16_touches (finish_next.1 h)
  | std | sts | stu | stx | sty => exact storeReg16_touches (finish_next.1 h)
  | leas | leau => exact loadAddress_touches (finish_next.1 h)
  | leax | leay => exact loadAddressZ_touches (finish_next.1 h)
  | tfr => exact transfer_touches (finish_next.1 h)
  | exg => exact exchange_touches (finish_next.1 h)
  | pshs | pshu => exact pushList_touches (finish_next.1 h)
  | puls | pulu => exact pullList_touches (finish_next.1 h)
  | swi | swi2 | swi3 => exact enterException_entire_touches (finish_next.1 h)
  | rti => exact returnFromException_touches (finish_next.1 h)
  | cwai => exact waitForInterrupt_touches (finish_next.1 h)
  | sync => exact touches_of_next h ((Touches.refl _ s).waiting _)
  | nop => exact touches_of_next h (.refl _ s)
  | jmp => exact jump_touches (finish_next.1 h)
  | jsr => exact jumpToSubroutine_touches (finish_next.1 h)
  | bsr | lbsr => exact call_touches (finish_next.1 h)
  | rts => exact returnFromSubroutine_touches (finish_next.1 h)
  | bcc | lbcc | bcs | lbcs | beq | lbeq | bge | lbge | bgt | lbgt | bhi | lbhi | bhs | lbhs | ble | lble | blo | lblo
  | bls | lbls | blt | lblt | bmi | lbmi | bne | lbne | bpl | lbpl | bra | lbra | brn | lbrn | bvc | lbvc | bvs | lbvs =>
    exact touches_of_next h (branch_touches _ _ s)

/-- Settles O14: the register part of `exec_touches`. -/
theorem registerFrame : Obligations.RegisterFrame := by
  intro i s t h
  have ht := exec_touches i s t h
  exact ⟨fun _ hcc hr => ht.reg8 hcc hr, fun _ hpc hd hr => ht.reg16 hpc hd hr⟩

theorem startedWait_eq_none {i : Instr} (hcwai : ∀ m, i ≠ .cwai m) (hsync : i ≠ .sync) : startedWait i = none := by
  unfold startedWait
  split
  next m => exact absurd rfl (hcwai m)
  next => exact absurd rfl hsync
  next => rfl

/-- Settles O16: the hidden part of `exec_touches`; CWAI and SYNC alone start a wait. -/
theorem hiddenStateFrame : Obligations.HiddenStateFrame := by
  intro i s t h
  have ht := exec_touches i s t h
  refine ⟨ht.nmiPending, ht.irqIn, ht.platform, ht.nmiArmed, ?_, ?_, ?_⟩
  · rintro m rfl
    exact ht.runState
  · rintro rfl
    exact ht.runState
  · intro hcwai hsync
    rw [ht.runState, startedWait_eq_none hcwai hsync, Option.getD_none]

/-! ### The state after reset -/

/-- Settles O10: nothing is listed in memory, no NMI is pending, and the machine runs. -/
theorem invariantHoldsAtReset : Obligations.InvariantHoldsAtReset where
  memory := rfl
  nmi hpending := by cases hpending
  cwai hwait := by cases hwait

end Sys2Proof.Machine
end

section
/-! PROOFS. Accesses to memory and the stack primitives (spec/20_memory.md R41, R42, R48 to R50): what the class of an
address decides, the byte order of a word, and a push that a pull takes back. -/

namespace Sys2Proof.Machine

/-! ### Byte order in whole numbers -/

theorem hiByte_eq_ofNat (v : Word) : hiByte v = BitVec.ofNat 8 (v.toNat / 256) := by
  apply BitVec.eq_of_toNat_eq
  have hv := v.isLt
  rw [hiByte_toNat, BitVec.toNat_ofNat]
  omega

theorem loByte_eq_ofNat (v : Word) : loByte v = BitVec.ofNat 8 v.toNat :=
  BitVec.eq_of_toNat_eq (by rw [loByte_toNat, BitVec.toNat_ofNat])

theorem join_eq_ofNat (h l : Byte) : join h l = BitVec.ofNat 16 (256 * h.toNat + l.toNat) := by
  apply BitVec.eq_of_toNat_eq
  have hh := h.isLt
  have hl := l.isLt
  rw [join_toNat, BitVec.toNat_ofNat]
  omega

/-! ### Accesses -/

/-- Settles O21: the four classes of an address, each by the access it decides. -/
theorem regionsDecideAccesses : Obligations.RegionsDecideAccesses := by
  intro s a v
  refine ⟨fun hram => ?ram, fun hrom => ?rom, fun hdev => ?device, fun habs => ?absent⟩
  case ram =>
    obtain ⟨t, ht⟩ := writeByte_usable (v := v) (.inl hram)
    exact ⟨t, ht, writeByte_read ht hram⟩
  case rom => exact ⟨writeByte_ok.2 (.inr ⟨hrom, rfl⟩), readByte_usable (.inr hrom)⟩
  case device => simp only [readByte, writeByte, hdev, and_self]
  case absent => simp only [readByte, writeByte, habs, and_self]

/-- A word read gives its two bytes, the high one from the lower address (R42). -/
theorem readWord_of_bytes {s : State} {a : Word} {h l : Byte} (hh : readByte s a = .ok h)
    (hl : readByte s (a + 1) = .ok l) : readWord s a = .ok (join h l) :=
  readWord_ok.2 ⟨by rw [hiByte_join, hh], by rw [loByte_join, hl]⟩

/-- The byte stored at the lowest address reads back from ram. -/
theorem Stored.readByte_head {a : Word} {v : Byte} {bs : List Byte} {s t : State} (h : Stored a (v :: bs) s t)
    (hram : s.region a = .ram) : readByte t a = .ok v := by
  simpa using h.1 0 v rfl (by simpa using hram)

/-- A word stored reads back from ram. -/
theorem Stored.readWord {a v : Word} {s t : State} (h : Stored a (wordBytes v) s t) (hhi : s.region a = .ram)
    (hlo : s.region (a + 1) = .ram) : readWord t a = .ok v :=
  readWord_ok.2 ⟨h.readByte_head hhi, h.1 1 (loByte v) rfl hlo⟩

theorem mem_bytesFrom {a b : Word} {n : Nat} : b ∈ bytesFrom a n ↔ ∃ k < n, b = a + BitVec.ofNat 16 k := by
  simp only [bytesFrom, List.mem_map, List.mem_range, @eq_comm _ b]

/-- A byte outside those stored, or outside ram, reads as before. -/
theorem Stored.readByte_other {a b : Word} {bs : List Byte} {s t : State} (h : Stored a bs s t)
    (hb : b ∉ bytesFrom a bs.length ∨ s.region b ≠ .ram) : readByte t b = readByte s b :=
  h.2 b (hb.imp_left fun hout k hk hbk => hout (mem_bytesFrom.2 ⟨k, hk, hbk⟩))

/-- Settles O20: a word write stores its two bytes, high byte first, and a word read joins them. -/
theorem wordAccessesAreBigEndian : Obligations.WordAccessesAreBigEndian := by
  constructor
  case left =>
    intro s a v hhi hlo
    obtain ⟨t, ht⟩ := writeWord_usable (v := v) (.inl hhi) (.inl hlo)
    have hstored := writeWord_stored ht
    have hread := hstored.readWord hhi hlo
    obtain ⟨hh, hl⟩ := readWord_ok.1 hread
    refine ⟨t, ht, (writeWord_frame ht).1, hiByte_eq_ofNat v ▸ hh, loByte_eq_ofNat v ▸ hl, fun b h0 h1 => ?_, hread⟩
    refine hstored.readByte_other (.inl ?_)
    simpa [bytesFrom, wordBytes, List.range_succ] using ⟨h0, h1⟩
  case right =>
    intro s a h l hh hl
    rw [← join_eq_ofNat]
    exact readWord_of_bytes hh hl

/-! ### The stack primitives -/

theorem push8_pushed {r : StackReg} {v : Byte} {s t : State} (h : push8 r v s = .ok t) : Pushed r [v] s t :=
  (Pushed.nil r s).push8 (by decide) h

theorem push16_pushed {r : StackReg} {v : Word} {s t : State} (h : push16 r v s = .ok t) :
    Pushed r (wordBytes v) s t :=
  (Pushed.nil r s).push16 (by decide) h

theorem sub_two_add_one (a : Word) : a - 2 + 1 = a - 1 := by
  apply BitVec.eq_of_toNat_eq
  simp
  omega

/-- A push of a byte succeeds where the address below the pointer reads and writes. -/
theorem push8_usable {r : StackReg} {s : State} (h : s.Usable (s.sp r - 1)) (v : Byte) : ∃ t, push8 r v s = .ok t :=
  writeByte_usable (h.congr (State.setSp_platform s r _))

/-- A push of a word succeeds where the two addresses below the pointer read and write. -/
theorem push16_usable {r : StackReg} {s : State} (hlo : s.Usable (s.sp r - 1)) (hhi : s.Usable (s.sp r - 2))
    (v : Word) : ∃ t, push16 r v s = .ok t := by
  obtain ⟨w, hw⟩ := push8_usable hlo (loByte v)
  have hw' := push8_pushed hw
  have hsp : w.sp r - 1 = s.sp r - 2 := by
    rw [hw'.sp]
    exact (sub_ofNat_succ (s.sp r) 1).symm
  obtain ⟨t, ht⟩ := push8_usable (hsp ▸ hhi.congr hw'.platform) (hiByte v)
  exact ⟨t, by simpa only [push16, Bus.push16, plain_push8, Res.bind_ok] using ⟨w, hw, ht⟩⟩

/-- With the pointer back where it was before a push, memory alone differs. -/
theorem Pushed.setSp_back {r : StackReg} {bs : List Byte} {s t : State} (h : Pushed r bs s t) :
    t.setSp r (t.sp r + BitVec.ofNat 16 bs.length) = { s with mem := t.mem } := by
  rw [h.sp, BitVec.sub_add_cancel, h.state]
  cases r <;> rfl

/-- A pull takes back the byte that a push has left in ram. -/
theorem pull8_of_pushed {r : StackReg} {v : Byte} {s t : State} (h : Pushed r [v] s t)
    (hram : s.region (s.sp r - 1) = .ram) : pull8 r t = .ok (v, { s with mem := t.mem }) := by
  refine pull8_ok.2 ⟨?_, h.setSp_back.symm⟩
  rw [h.sp]
  exact h.stored.readByte_head hram

/-- A pull takes back the word that a push has left in ram. -/
theorem pull16_of_pushed {r : StackReg} {v : Word} {s t : State} (h : Pushed r (wordBytes v) s t)
    (hlo : s.region (s.sp r - 1) = .ram) (hhi : s.region (s.sp r - 2) = .ram) :
    pull16 r t = .ok (v, { s with mem := t.mem }) := by
  refine pull16_ok.2 ⟨?_, h.setSp_back.symm⟩
  rw [h.sp]
  exact h.stored.readWord hhi (by rw [← sub_two_add_one] at hlo; exact hlo)

/-- Settles O22: a push leaves its bytes below the pointer, and the pull of the same width takes them back. -/
theorem stackPrimitives : Obligations.StackPrimitives := by
  intro r s
  refine ⟨fun v hram => ?push8, fun v hlo hhi => ?push16, fun v hv => ?pull8, fun h l hh hl => ?pull16⟩
  case push8 =>
    obtain ⟨t, ht⟩ := push8_usable (.inl hram) v
    have hp := push8_pushed ht
    exact ⟨t, ht, hp.state, hp.stored, pull8_of_pushed hp hram⟩
  case push16 =>
    obtain ⟨t, ht⟩ := push16_usable (.inl hlo) (.inl hhi) v
    have hp := push16_pushed ht
    exact ⟨t, ht, hp.state, hp.stored, pull16_of_pushed hp hlo hhi⟩
  case pull8 => exact pull8_ok.2 ⟨hv, rfl⟩
  case pull16 =>
    rw [← join_eq_ofNat]
    exact pull16_ok.2 ⟨readWord_of_bytes hh hl, rfl⟩

end Sys2Proof.Machine
end

section
/-! PROOFS. The memory frame (spec/20_memory.md R44 to R50): which shared operations leave memory, which bytes the others
store to, then the table of the instructions and the step. -/

namespace Sys2Proof.Machine

/-! ### Operations that leave memory -/

theorem indexedEA_mem {m : Indexed} {s u : State} {a : Word} (h : indexedEA m s = .ok (a, u)) : u.mem = s.mem := by
  rw [indexedEA_frame h]

theorem effectiveAddress_mem {m : MemOperand} {s u : State} {a : Word} (h : effectiveAddress m s = .ok (a, u)) :
    u.mem = s.mem := by
  rw [effectiveAddress_frame h]

theorem operand8_mem {src : Src8} {s u : State} {v : Byte} (h : operand8 src s = .ok (v, u)) : u.mem = s.mem := by
  rw [operand8_frame h]

theorem operand16_mem {src : Src16} {s u : State} {v : Word} (h : operand16 src s = .ok (v, u)) : u.mem = s.mem := by
  rw [operand16_frame h]

theorem addToAcc_mem {r : Acc} {src : Src8} {cin : Bool} {s t : State} (h : Bus.plain.addToAcc r src cin s = .ok t) :
    t.mem = s.mem := by
  obtain ⟨m, u, hu, rfl⟩ := addToAcc_ok.1 h
  exact (State.setAcc_mem u r _).trans (operand8_mem hu)

theorem subFromAcc_mem {r : Acc} {src : Src8} {bin : Bool} {s t : State}
    (h : Bus.plain.subFromAcc r src bin s = .ok t) : t.mem = s.mem := by
  obtain ⟨m, u, hu, rfl⟩ := subFromAcc_ok.1 h
  exact (State.setAcc_mem u.draw.2 r _).trans (operand8_mem hu :)

theorem compareAcc_mem {r : Acc} {src : Src8} {s t : State} (h : Bus.plain.compareAcc r src s = .ok t) :
    t.mem = s.mem := by
  obtain ⟨m, u, hu, rfl⟩ := compareAcc_ok.1 h
  exact (operand8_mem hu :)

theorem logicToAcc_mem {r : Acc} {src : Src8} {op : Byte → Byte → Byte} {s t : State}
    (h : Bus.plain.logicToAcc r src op s = .ok t) : t.mem = s.mem := by
  obtain ⟨m, u, hu, rfl⟩ := logicToAcc_ok.1 h
  exact (State.setAcc_mem u r _).trans (operand8_mem hu)

theorem bitTestAcc_mem {r : Acc} {src : Src8} {s t : State} (h : Bus.plain.bitTestAcc r src s = .ok t) :
    t.mem = s.mem := by
  obtain ⟨m, u, hu, rfl⟩ := bitTestAcc_ok.1 h
  exact (operand8_mem hu :)

theorem loadAcc_mem {r : Acc} {src : Src8} {s t : State} (h : Bus.plain.loadAcc r src s = .ok t) : t.mem = s.mem := by
  obtain ⟨m, u, hu, rfl⟩ := loadAcc_ok.1 h
  exact (State.setAcc_mem u r _).trans (operand8_mem hu)

theorem modifyAcc_mem (r : Acc) (op : Byte → Byte → Byte × Byte) (s : State) : (modifyAcc r op s).mem = s.mem :=
  State.setAcc_mem s r _

theorem modifyAccDrawing_mem (r : Acc) (op : Bool → Byte → Byte → Byte × Byte) (s : State) :
    (modifyAccDrawing r op s).mem = s.mem :=
  modifyAcc_mem r _ s.draw.2

theorem testMem_mem {m : MemOperand} {s t : State} (h : Bus.plain.testMem m s = .ok t) : t.mem = s.mem := by
  obtain ⟨a, u, v, hu, _, rfl⟩ := testMem_ok.1 h
  exact (effectiveAddress_mem hu :)

theorem arithD_mem {op : Word → Word → Alu16} {src : Src16} {s t : State} (h : Bus.plain.arithD op src s = .ok t) :
    t.mem = s.mem := by
  obtain ⟨m, u, hu, rfl⟩ := arithD_ok.1 h
  exact (operand16_mem hu :)

theorem compare16_mem {r : Reg16} {src : Src16} {s t : State} (h : Bus.plain.compare16 r src s = .ok t) :
    t.mem = s.mem := by
  obtain ⟨m, u, hu, rfl⟩ := compare16_ok.1 h
  exact (operand16_mem hu :)

theorem loadReg16_mem {r : Reg16} {src : Src16} {s t : State} (h : Bus.plain.loadReg16 r src s = .ok t) :
    t.mem = s.mem := by
  obtain ⟨m, u, hu, rfl⟩ := loadReg16_ok.1 h
  exact (State.load16_mem u r m).trans (operand16_mem hu)

theorem loadAddress_mem {r : Reg16} {m : Indexed} {s t : State} (h : Bus.plain.loadAddress r m s = .ok t) :
    t.mem = s.mem := by
  obtain ⟨a, u, hu, rfl⟩ := loadAddress_ok.1 h
  exact (State.load16_mem u r a).trans (indexedEA_mem hu)

theorem loadAddressZ_mem {r : Reg16} {m : Indexed} {s t : State} (h : Bus.plain.loadAddressZ r m s = .ok t) :
    t.mem = s.mem := by
  obtain ⟨a, u, hu, rfl⟩ := loadAddressZ_ok.1 h
  exact (State.load16_mem u r a).trans (indexedEA_mem hu)

theorem transfer_mem {r1 r2 : Reg} {s t : State} (h : transfer r1 r2 s = .ok t) : t.mem = s.mem := by
  match r1, r2 with
  | .r8 p, .r8 q =>
    obtain rfl := Except.ok.inj h
    exact State.setReg8_mem _ _ _
  | .r16 p, .r16 q =>
    obtain rfl := Except.ok.inj h
    exact State.load16_mem _ _ _
  | .r8 p, .r16 q => cases h
  | .r16 p, .r8 q => cases h

theorem exchange_mem {r1 r2 : Reg} {s t : State} (h : exchange r1 r2 s = .ok t) : t.mem = s.mem := by
  match r1, r2 with
  | .r8 p, .r8 q =>
    obtain rfl := Except.ok.inj h
    rw [State.setReg8_mem, State.setReg8_mem]
  | .r16 p, .r16 q =>
    obtain rfl := Except.ok.inj h
    rw [State.load16_mem, State.load16_mem]
  | .r8 p, .r16 q => cases h
  | .r16 p, .r8 q => cases h

theorem branch_mem (k : Cond) (o : Word) (s : State) : (branch k o s).mem = s.mem := by
  unfold branch
  split <;> rfl

theorem jump_mem {m : MemOperand} {s t : State} (h : Bus.plain.jump m s = .ok t) : t.mem = s.mem := by
  obtain ⟨a, u, hu, rfl⟩ := jump_ok.1 h
  exact (effectiveAddress_mem hu :)

theorem pull8_mem {r : StackReg} {s t : State} {v : Byte} (h : pull8 r s = .ok (v, t)) : t.mem = s.mem := by
  rw [(pull8_ok.1 h).2, State.setSp_mem]

theorem pull16_mem {r : StackReg} {s t : State} {v : Word} (h : pull16 r s = .ok (v, t)) : t.mem = s.mem := by
  rw [(pull16_ok.1 h).2, State.setSp_mem]

theorem pullByteIf_mem {named : Bool} {r : StackReg} {set : State → Byte → State} {s t : State}
    (h : Bus.plain.pullByteIf named r set s = .ok t) (hset : ∀ u v, (set u v).mem = u.mem) : t.mem = s.mem := by
  cases named
  case false => rw [show t = s from pullByteIf_ok.1 h]
  case true =>
    obtain ⟨v, u, hu, rfl⟩ := pullByteIf_ok.1 h
    rw [hset, pull8_mem hu]

theorem pullWordIf_mem {named : Bool} {r : StackReg} {set : State → Word → State} {s t : State}
    (h : Bus.plain.pullWordIf named r set s = .ok t) (hset : ∀ u v, (set u v).mem = u.mem) : t.mem = s.mem := by
  cases named
  case false => rw [show t = s from pullWordIf_ok.1 h]
  case true =>
    obtain ⟨v, u, hu, rfl⟩ := pullWordIf_ok.1 h
    rw [hset, pull16_mem hu]

theorem pullList_mem {r : StackReg} {l : RegList} {s t : State} (h : Bus.plain.pullList r l s = .ok t) :
    t.mem = s.mem := by
  simp only [Bus.pullList, Res.bind_ok] at h
  obtain ⟨s₁, hcc, s₂, ha, s₃, hb, s₄, hdp, s₅, hx, s₆, hy, s₇, hother, hpc⟩ := h
  calc t.mem = s₇.mem := pullWordIf_mem hpc fun _ _ => rfl
    _ = s₆.mem := pullWordIf_mem hother fun u v => State.loadOtherSp_mem u r v
    _ = s₅.mem := pullWordIf_mem hy fun _ _ => rfl
    _ = s₄.mem := pullWordIf_mem hx fun _ _ => rfl
    _ = s₃.mem := pullByteIf_mem hdp fun _ _ => rfl
    _ = s₂.mem := pullByteIf_mem hb fun _ _ => rfl
    _ = s₁.mem := pullByteIf_mem ha fun _ _ => rfl
    _ = s.mem := pullByteIf_mem hcc fun _ _ => rfl

theorem returnFromSubroutine_mem {s t : State} (h : Bus.plain.returnFromSubroutine s = .ok t) : t.mem = s.mem := by
  obtain ⟨a, u, hu, rfl⟩ := returnFromSubroutine_ok.1 h
  exact (pull16_mem hu :)

theorem returnFromException_mem {s t : State} (h : Bus.plain.returnFromException s = .ok t) : t.mem = s.mem := by
  obtain ⟨cc, w, hw, ⟨_, hall⟩ | ⟨_, a, u, hu, rfl⟩⟩ := returnFromException_ok.1 h
  · exact (pullList_mem hall).trans (pull8_mem hw :)
  · exact (pull16_mem hu).trans (pull8_mem hw :)

/-! ### Which bytes an operation stores to -/

/-- From `s` to `t` the platform stays, every byte outside `as` and every byte outside ram reads as before, and memory
keeps its canonical form. Unlike `WritesOnly` it speaks of reads alone, which is what `Stored` knows of pushed bytes. -/
structure StoresOnly (as : List Word) (s t : State) : Prop where
  platform : t.platform = s.platform
  readByte : ∀ b : Word, b ∉ as ∨ s.region b ≠ .ram → readByte t b = readByte s b
  wf : Memory.wf s.mem = true → Memory.wf t.mem = true

theorem StoresOnly.of_mem_eq {as : List Word} {s t : State} (hm : t.mem = s.mem) (hp : t.platform = s.platform) :
    StoresOnly as s t where
  platform := hp
  readByte := fun _ _ => readByte_congr hp (by rw [hm])
  wf := fun hw => by rw [hm]; exact hw

theorem StoresOnly.trans {as : List Word} {s t u : State} (h : StoresOnly as s t) (h' : StoresOnly as t u) :
    StoresOnly as s u where
  platform := h'.platform.trans h.platform
  readByte := fun b hb => by
    have hregion : t.region b = s.region b := by rw [State.region, State.region, h.platform]
    rw [h'.readByte b (by rw [hregion]; exact hb), h.readByte b hb]
  wf := fun hw => h'.wf (h.wf hw)

/-- `StoresOnly.trans`, the later stores first: they fix the state between, where that is an update of `s`. -/
theorem StoresOnly.trans' {as : List Word} {s t u : State} (h' : StoresOnly as t u) (h : StoresOnly as s t) :
    StoresOnly as s u :=
  h.trans h'

theorem Stored.storesOnly {a : Word} {bs : List Byte} {s t : State} (h : Stored a bs s t)
    (hp : t.platform = s.platform) (hw : Memory.wf s.mem = true → Memory.wf t.mem = true) :
    StoresOnly (bytesFrom a bs.length) s t :=
  ⟨hp, fun _ hb => h.readByte_other hb, hw⟩

/-- Bytes pushed are stored below the pointer (R48). -/
theorem Pushed.storesOnly {r : StackReg} {bs : List Byte} {s t : State} (h : Pushed r bs s t) :
    StoresOnly (bytesFrom (s.sp r - BitVec.ofNat 16 bs.length) bs.length) s t :=
  h.stored.storesOnly h.platform h.wf

theorem writeByte_stores {s t : State} {a : Word} {v : Byte} (h : writeByte s a v = .ok t) :
    StoresOnly (bytesFrom a 1) s t :=
  (writeByte_stored h).storesOnly (writeByte_frame h).2.platform (writeByte_frame h).2.wf

theorem writeWord_stores {s t : State} {a v : Word} (h : writeWord s a v = .ok t) :
    StoresOnly (bytesFrom a 2) s t :=
  (writeWord_stored h).storesOnly (writeWord_frame h).2.platform (writeWord_frame h).2.wf

/-- Forming an address stores nothing (R65). -/
theorem effectiveAddress_stores {as : List Word} {m : MemOperand} {s u : State} {a : Word}
    (h : effectiveAddress m s = .ok (a, u)) : StoresOnly as s u :=
  .of_mem_eq (effectiveAddress_mem h) (effectiveAddress_touches h).platform

/-! ### Stores to an operand in memory -/

theorem bytesAt_of_ok {m : MemOperand} {s u : State} {a : Word} (h : effectiveAddress m s = .ok (a, u)) (n : Nat) :
    bytesAt m n s = bytesFrom a n := by
  rw [bytesAt, h]

theorem storeAcc_stores {r : Acc} {m : MemOperand} {s t : State} (h : Bus.plain.storeAcc r m s = .ok t) :
    StoresOnly (bytesAt m 1 s) s t := by
  obtain ⟨a, u, w, hu, hw, rfl⟩ := storeAcc_ok.1 h
  rw [bytesAt_of_ok hu]
  exact ((effectiveAddress_stores hu).trans (writeByte_stores hw)).trans (.of_mem_eq rfl rfl)

theorem storeReg16_stores {r : Reg16} {m : MemOperand} {s t : State} (h : Bus.plain.storeReg16 r m s = .ok t) :
    StoresOnly (bytesAt m 2 s) s t := by
  obtain ⟨a, u, w, hu, hw, rfl⟩ := storeReg16_ok.1 h
  rw [bytesAt_of_ok hu]
  exact ((effectiveAddress_stores hu).trans (writeWord_stores hw)).trans (.of_mem_eq rfl rfl)

/-- CC written between the address and the store of a read-modify-write (R344 f). -/
theorem writeByte_withCC_stores {u t : State} {a : Word} {v cc : Byte} (h : writeByte { u with cc := cc } a v = .ok t) :
    StoresOnly (bytesFrom a 1) u t :=
  (writeByte_stores h).trans' (.of_mem_eq rfl rfl)

theorem clearMem_stores {m : MemOperand} {s t : State} (h : Bus.plain.clearMem m s = .ok t) :
    StoresOnly (bytesAt m 1 s) s t := by
  obtain ⟨a, u, hu, hw⟩ := clearMem_ok.1 h
  rw [bytesAt_of_ok hu]
  exact (effectiveAddress_stores hu).trans (writeByte_withCC_stores hw)

theorem modifyMem_stores {m : MemOperand} {op : Byte → Byte → Byte × Byte} {s t : State}
    (h : Bus.plain.modifyMem m op s = .ok t) : StoresOnly (bytesAt m 1 s) s t := by
  obtain ⟨a, u, v, hu, _, hw⟩ := modifyMem_ok.1 h
  rw [bytesAt_of_ok hu]
  exact (effectiveAddress_stores hu).trans (writeByte_withCC_stores hw)

theorem readWord_congr {s t : State} (hm : t.mem = s.mem) (hp : t.platform = s.platform) (a : Word) :
    readWord t a = readWord s a := by
  simp only [readWord, Bus.readWord, plain_read, readByte, State.region, hm, hp]

/-- No address depends on the counter of free values. -/
theorem effectiveAddress_of_draw {m : MemOperand} {s u : State} {a : Word}
    (h : effectiveAddress m s.draw.2 = .ok (a, u)) : ∃ w, effectiveAddress m s = .ok (a, w) := by
  cases m with
  | direct d | extended d =>
    obtain ⟨rfl, _⟩ := Prod.mk.inj (Except.ok.inj h)
    exact ⟨s, rfl⟩
  | indexed i =>
    have hbase : (indexedBase i s.draw.2).1 = (indexedBase i s).1 := by cases i <;> rfl
    have hword := readWord_congr (s := (indexedBase i s).2) (t := (indexedBase i s.draw.2).2)
      (by rw [indexedBase_frame i s, indexedBase_frame i s.draw.2]; rfl)
      (by rw [indexedBase_frame i s, indexedBase_frame i s.draw.2]; rfl)
    obtain ⟨rfl, ha⟩ := indexedEA_ok.1 h
    exact ⟨_, indexedEA_ok.2 ⟨rfl, by rw [← hbase, ← hword]; exact ha⟩⟩

theorem modifyMemDrawing_stores {m : MemOperand} {op : Bool → Byte → Byte → Byte × Byte} {s t : State}
    (h : Bus.plain.modifyMemDrawing m op s = .ok t) : StoresOnly (bytesAt m 1 s) s t := by
  have hdrawn : Bus.plain.modifyMem m (op s.draw.1) s.draw.2 = .ok t := h
  obtain ⟨a, u, _, hu, _, _⟩ := modifyMem_ok.1 hdrawn
  obtain ⟨w, hw⟩ := effectiveAddress_of_draw hu
  have hbytes : bytesAt m 1 s = bytesAt m 1 s.draw.2 := by rw [bytesAt_of_ok hu, bytesAt_of_ok hw]
  rw [hbytes]
  exact (modifyMem_stores hdrawn).trans' (.of_mem_eq rfl rfl)

/-! ### Stores to a stack -/

theorem pushList_stores {r : StackReg} {l : RegList} {s t : State} (h : Bus.plain.pushList r l s = .ok t) :
    StoresOnly (bytesFrom (s.sp r - BitVec.ofNat 16 (frameBytes r l s).length) (frameBytes r l s).length) s t :=
  (pushList_pushed h).storesOnly

theorem call_stores {target : Word} {s t : State} (h : Bus.plain.call target s = .ok t) :
    StoresOnly (bytesFrom (s.s - 2) 2) s t := by
  obtain ⟨w, hw, rfl⟩ := call_ok.1 h
  exact (push16_pushed hw).storesOnly.trans (.of_mem_eq rfl rfl)

/-- The target of JSR is formed first, so that an auto increment of S moves the return address too (R147, R344 a). -/
theorem jumpToSubroutine_stores {m : MemOperand} {s t : State} (h : Bus.plain.jumpToSubroutine m s = .ok t) :
    StoresOnly (storedBytes (.jsr m) s) s t := by
  obtain ⟨a, u, hu, ht⟩ := jumpToSubroutine_ok.1 h
  have hbytes : storedBytes (.jsr m) s = bytesFrom (u.s - 2) 2 := by simp only [storedBytes, hu]
  rw [hbytes]
  exact (effectiveAddress_stores hu).trans (call_stores ht)

/-- How many bytes an entry stacks (R306, R312). -/
def Frame.size : Frame → Nat
  | .entire => 12
  | .short => 3
  | .stacked => 0

theorem pushShortState_pushed {s t : State} (h : Bus.plain.pushShortState s = .ok t) :
    Pushed .s (shortFrame s.cc s) s t := by
  obtain ⟨w, hw, ht⟩ := pushShortState_ok.1 h
  exact (push16_pushed hw).push8 (by simp [wordBytes]) ht

theorem frameBytes_all_length (r : StackReg) (s : State) : (frameBytes r RegList.all s).length = Frame.entire.size := rfl

theorem shortFrame_length (cc : Byte) (s : State) : (shortFrame cc s).length = Frame.short.size := rfl

theorem pushFrame_stores {f : Frame} {s t : State} (h : Bus.plain.pushFrame f s = .ok t) :
    StoresOnly (bytesFrom (s.s - BitVec.ofNat 16 f.size) f.size) s t := by
  cases f with
  | entire =>
    have hpush := pushList_stores (s := { s with cc := CC.put s.cc .e true }) h
    rw [frameBytes_all_length] at hpush
    exact hpush.trans' (.of_mem_eq rfl rfl)
  | short =>
    have hpush := (pushShortState_pushed (s := { s with cc := CC.put s.cc .e false }) h).storesOnly
    rw [shortFrame_length] at hpush
    exact hpush.trans' (.of_mem_eq rfl rfl)
  | stacked =>
    obtain rfl := Except.ok.inj h
    exact .of_mem_eq rfl rfl

theorem enterException_stores {f : Frame} {m : MaskUpdate} {ev : Event} {s t : State}
    (h : Bus.plain.enterException f m ev s = .ok t) :
    StoresOnly (bytesFrom (s.s - BitVec.ofNat 16 f.size) f.size) s t := by
  obtain ⟨w, target, hw, _, rfl⟩ := enterException_ok.1 h
  exact (pushFrame_stores hw).trans (.of_mem_eq rfl rfl)

theorem enterException_entire_stores {m : MaskUpdate} {ev : Event} {s t : State}
    (h : Bus.plain.enterException .entire m ev s = .ok t) : StoresOnly (bytesFrom (s.s - 12) 12) s t := by
  simpa only [Frame.size, BitVec.ofNat_eq_ofNat] using enterException_stores h

theorem waitForInterrupt_stores {m : Byte} {s t : State} (h : Bus.plain.waitForInterrupt m s = .ok t) :
    StoresOnly (bytesFrom (s.s - 12) 12) s t := by
  obtain ⟨w, hw, rfl⟩ := waitForInterrupt_ok.1 h
  have hframe : StoresOnly _ s w := (pushFrame_stores hw).trans' (.of_mem_eq rfl rfl)
  exact hframe.trans (.of_mem_eq rfl rfl)

/-! ### The instructions -/

/-- An instruction that answers `u` outright leaves the memory that `u` has. -/
theorem mem_of_next {s u t : State} {φ ρ : Type} (h : (Host.Outcome.next u : Host.Outcome State φ ρ) = .next t)
    (hu : u.mem = s.mem) : t.mem = s.mem := by
  obtain rfl := Host.Outcome.next.inj h
  exact hu

/-- Each instruction stores to the bytes of its table row alone: the arms follow the shared operation that gives the
meaning, first those that store, then those that leave memory. -/
theorem exec_stores (i : Instr) (s t : State) (h : exec i s = .next t) : StoresOnly (storedBytes i s) s t := by
  have hp : t.platform = s.platform := (exec_touches i s t h).platform
  cases i with
  | sta | stb => exact storeAcc_stores (finish_next.1 h)
  | std | sts | stu | stx | sty => exact storeReg16_stores (finish_next.1 h)
  | asl | lsl | asr | neg => exact modifyMemDrawing_stores (finish_next.1 h)
  | lsr | rol | ror | com | inc | dec => exact modifyMem_stores (finish_next.1 h)
  | clr => exact clearMem_stores (finish_next.1 h)
  | pshs | pshu => exact pushList_stores (finish_next.1 h)
  | swi | swi2 | swi3 => exact enterException_entire_stores (finish_next.1 h)
  | cwai => exact waitForInterrupt_stores (finish_next.1 h)
  | jsr => exact jumpToSubroutine_stores (finish_next.1 h)
  | bsr | lbsr => exact call_stores (finish_next.1 h)
  | adca | adcb | adda | addb => exact .of_mem_eq (addToAcc_mem (finish_next.1 h)) hp
  | sbca | sbcb | suba | subb => exact .of_mem_eq (subFromAcc_mem (finish_next.1 h)) hp
  | cmpa | cmpb => exact .of_mem_eq (compareAcc_mem (finish_next.1 h)) hp
  | anda | andb | eora | eorb | ora | orb => exact .of_mem_eq (logicToAcc_mem (finish_next.1 h)) hp
  | bita | bitb => exact .of_mem_eq (bitTestAcc_mem (finish_next.1 h)) hp
  | lda | ldb => exact .of_mem_eq (loadAcc_mem (finish_next.1 h)) hp
  | asla | lsla | asra | nega => exact .of_mem_eq (mem_of_next h (modifyAccDrawing_mem .a _ s)) hp
  | aslb | lslb | asrb | negb => exact .of_mem_eq (mem_of_next h (modifyAccDrawing_mem .b _ s)) hp
  | lsra | rola | rora | coma | inca | deca | daa => exact .of_mem_eq (mem_of_next h (modifyAcc_mem .a _ s)) hp
  | lsrb | rolb | rorb | comb | incb | decb => exact .of_mem_eq (mem_of_next h (modifyAcc_mem .b _ s)) hp
  | clra | clrb | sex | mul | abx | andcc | orcc | tsta | tstb | sync | nop => exact .of_mem_eq (mem_of_next h rfl) hp
  | tst => exact .of_mem_eq (testMem_mem (finish_next.1 h)) hp
  | addd | subd => exact .of_mem_eq (arithD_mem (finish_next.1 h)) hp
  | cmpd | cmps | cmpu | cmpx | cmpy => exact .of_mem_eq (compare16_mem (finish_next.1 h)) hp
  | ldd | lds | ldu | ldx | ldy => exact .of_mem_eq (loadReg16_mem (finish_next.1 h)) hp
  | leas | leau => exact .of_mem_eq (loadAddress_mem (finish_next.1 h)) hp
  | leax | leay => exact .of_mem_eq (loadAddressZ_mem (finish_next.1 h)) hp
  | tfr => exact .of_mem_eq (transfer_mem (finish_next.1 h)) hp
  | exg => exact .of_mem_eq (exchange_mem (finish_next.1 h)) hp
  | puls | pulu => exact .of_mem_eq (pullList_mem (finish_next.1 h)) hp
  | rti => exact .of_mem_eq (returnFromException_mem (finish_next.1 h)) hp
  | rts => exact .of_mem_eq (returnFromSubroutine_mem (finish_next.1 h)) hp
  | jmp => exact .of_mem_eq (jump_mem (finish_next.1 h)) hp
  | bcc | lbcc | bcs | lbcs | beq | lbeq | bge | lbge | bgt | lbgt | bhi | lbhi | bhs | lbhs | ble | lble | blo | lblo
  | bls | lbls | blt | lblt | bmi | lbmi | bne | lbne | bpl | lbpl | bra | lbra | brn | lbrn | bvc | lbvc | bvs | lbvs =>
    exact .of_mem_eq (mem_of_next h (branch_mem _ _ s)) hp

/-- Settles O15: the frame of `exec_stores`. -/
theorem memoryFrame : Obligations.MemoryFrame := by
  intro i s t h b hb
  exact (exec_stores i s t h).readByte b (.inl hb)

/-! ### The step -/

theorem takeInterrupt_stores {k : Interrupt} {s t : State} (h : Bus.plain.takeInterrupt k s = .ok t) :
    ∃ as, StoresOnly as s t := by
  cases k with
  | nmi | firq | irq => exact ⟨_, (enterException_stores h).trans' (.of_mem_eq rfl rfl)⟩

/-- The state an interrupt is taken in has the memory and the platform from before the sampling point. -/
theorem poll_take_stores {as : List Word} {s u : State} {k : Interrupt} (h : poll s = .take k u) :
    StoresOnly as s u := by
  obtain ⟨⟨rfl, _⟩ | ⟨rfl, _⟩, _⟩ := poll_take h
  · exact .of_mem_eq rfl rfl
  · exact .of_mem_eq rfl rfl

/-- The state an instruction starts in has the memory and the platform from before the sampling point. -/
theorem poll_execute_stores {as : List Word} {s u : State} (h : poll s = .execute u) : StoresOnly as s u := by
  rw [(poll_execute h).1]
  exact .of_mem_eq rfl rfl

theorem fetchInstr_stores {as : List Word} {s t : State} {i : Instr} (h : fetchInstr s = .ok (i, t)) :
    StoresOnly as s t := by
  obtain ⟨n, _, rfl⟩ := fetchInstr_ok.1 h
  exact .of_mem_eq rfl rfl

/-- Whatever a step does, the bytes it changes are stored to, so none outside ram is among them (R41, R49). -/
theorem step_stores {s t : State} (h : step s = .next t) : ∃ as, StoresOnly as s t := by
  rcases step_next h with hwait | ⟨k, u, hpoll, hentry⟩ | ⟨u, i, w, hpoll, hfetch, hexec⟩
  · rw [(poll_wait hwait).1]
    exact ⟨[], .of_mem_eq rfl rfl⟩
  · obtain ⟨as, hentry'⟩ := takeInterrupt_stores hentry
    exact ⟨as, (poll_take_stores hpoll).trans hentry'⟩
  · exact ⟨_, ((poll_execute_stores hpoll).trans (fetchInstr_stores hfetch)).trans (exec_stores i w t hexec)⟩

/-- Settles O11: a store leaves the platform and every byte outside ram. -/
theorem noStepChangesRomOrPlatform : Obligations.NoStepChangesRomOrPlatform := by
  intro s t h
  obtain ⟨as, hstores⟩ := step_stores h
  exact ⟨hstores.platform, fun a ha => hstores.readByte a (.inr ha)⟩

end Sys2Proof.Machine
end

section
/-! PROOFS. The decoder and the encoder (spec/30_encoding.md): the operand bytes of each form, the rows of the opcode maps,
and the two tables read against each other. -/

namespace Sys2Proof

open Machine

/-! ### Reading bytes from a source -/

theorem bind_eq_ok {ε α β : Type} {r : Except ε α} {f : α → Except ε β} {b : β} :
    (r >>= f) = .ok b ↔ ∃ a, r = .ok a ∧ f a = .ok b := by
  cases r with
  | ok a => simp [bind, Except.bind]
  | error e => simp [bind, Except.bind]

theorem pure_eq_ok {ε α : Type} {a b : α} : (pure a : Except ε α) = .ok b ↔ a = b := by
  simp [pure, Except.pure]

/-- The bytes that `fetch` gives from index `k` on begin with the list. -/
def Fetches {ε : Type} (fetch : Nat → Except ε Byte) (k : Nat) : List Byte → Prop
  | [] => True
  | b :: ops => fetch k = .ok b ∧ Fetches fetch (k + 1) ops

section
variable {ε : Type} {fetch : Nat → Except ε Byte} {undef : Undefined → ε} {k n : Nat}

@[simp] theorem fetches_nil : Fetches fetch k [] := trivial

@[simp] theorem fetches_cons {b : Byte} {ops : List Byte} :
    Fetches fetch k (b :: ops) ↔ fetch k = .ok b ∧ Fetches fetch (k + 1) ops := .rfl

theorem fetches_append {xs ys : List Byte} :
    Fetches fetch k (xs ++ ys) ↔ Fetches fetch k xs ∧ Fetches fetch (k + xs.length) ys := by
  induction xs generalizing k with
  | nil => simp
  | cons b xs ih =>
    rw [List.cons_append, fetches_cons, fetches_cons, ih, and_assoc, List.length_cons, Nat.add_right_comm, Nat.add_assoc]

theorem fetches_of_getElem {bs : List Byte} (h : ∀ j, ∀ b ∈ bs[j]?, fetch (k + j) = .ok b) : Fetches fetch k bs := by
  induction bs generalizing k with
  | nil => trivial
  | cons b bs ih =>
    refine ⟨h 0 b rfl, ih fun j c hc => ?_⟩
    rw [Nat.add_right_comm, Nat.add_assoc]
    exact h (j + 1) c hc

/-- Two bytes are fetched exactly if they are the halves of the word, the high one first (R6). -/
theorem fetch16_ok {w : Word} : fetch16 fetch k = .ok w ↔ Fetches fetch k [hiByte w, loByte w] := by
  simp only [fetch16, bind_eq_ok, pure_eq_ok, fetches_cons, fetches_nil, and_true]
  constructor
  · rintro ⟨h, hh, l, hl, rfl⟩
    simpa using ⟨hh, hl⟩
  · rintro ⟨hh, hl⟩
    exact ⟨_, hh, _, hl, join_hiByte_loByte w⟩

/-! ### Indexed operands -/

@[simp] theorem indexRegOfCode_code (r : IndexReg) : indexRegOfCode r.code = r := by cases r <;> rfl

/-- A postbyte with bit 7 clear is made up of RR and its offset (R69). -/
theorem offsetByte_of_fields {pb : Byte} (h7 : pb.getLsbD 7 = false) :
    0#1 ++ (indexRegOfCode (pb.extractLsb' 5 2)).code ++ pb.extractLsb' 0 5 = pb := by
  revert pb; decide

/-- A postbyte with bit 7 set is made up of RR, the indirect bit and MODE (R68). -/
theorem modeByte_of_fields {pb : Byte} {c : Nat} (h7 : pb.getLsbD 7 = true) (hc : (pb.extractLsb' 0 4).toNat = c) :
    modeByte (indexRegOfCode (pb.extractLsb' 5 2)) (pb.getLsbD 4) (BitVec.ofNat 4 c) = pb := by
  subst hc; revert pb; decide

theorem fields_offsetByte (r : IndexReg) (o : BitVec 5) :
    (0#1 ++ r.code ++ o).getLsbD 7 = false ∧ (0#1 ++ r.code ++ o).extractLsb' 5 2 = r.code ∧
      (0#1 ++ r.code ++ o).extractLsb' 0 5 = o := by
  generalize r.code = c
  revert c o; decide

theorem fields_modeByte (r : IndexReg) (ind : Bool) (mode : BitVec 4) :
    (modeByte r ind mode).getLsbD 7 = true ∧ (modeByte r ind mode).extractLsb' 5 2 = r.code ∧
      (modeByte r ind mode).getLsbD 4 = ind ∧ (modeByte r ind mode).extractLsb' 0 4 = mode := by
  unfold modeByte
  generalize r.code = c
  revert c ind mode; decide

/-- The bytes of an indexed operand decode to it. -/
theorem decodeIndexed_of_fetches {m : Indexed} (h : Fetches fetch k (encodeIndexed m)) :
    decodeIndexed fetch undef k = .ok (m, k + (encodeIndexed m).length) := by
  unfold decodeIndexed
  cases m
  all_goals obtain ⟨hpb, h⟩ := h; rw [hpb]
  case offset5 r o => simp only [bind, Except.bind, fields_offsetByte, if_true, indexRegOfCode_code]; rfl
  all_goals simp only [bind, Except.bind, fields_modeByte, indexRegOfCode_code, Bool.true_eq_false, if_false]
  case offset8 => rw [h.1]; rfl
  case pcr8 => rw [h.1]; rfl
  case offset16 => rw [fetch16_ok.2 h]; rfl
  case pcr16 => rw [fetch16_ok.2 h]; rfl
  case extIndirect => rw [fetch16_ok.2 h]; rfl
  all_goals rfl

/-- The bytes from `k` on are those of the operand `m`, and end before byte `n`. -/
def DecodedFrom (fetch : Nat → Except ε Byte) (k n : Nat) (m : Indexed) : Prop :=
  Fetches fetch k (encodeIndexed m) ∧ n = k + (encodeIndexed m).length

/-! The three shapes of an operand: a postbyte `p` alone, with a byte, with a word. -/

section
variable {pb p : Byte} {m : Indexed} (hpb : fetch k = .ok pb) (hp : p = pb)
include hpb hp

theorem decodedFrom_postbyte {d : Indexed} (h : (return (d, k + 1) : Except ε (Indexed × Nat)) = .ok (m, n))
    (hd : encodeIndexed d = [p]) : DecodedFrom fetch k n m := by
  obtain ⟨rfl, rfl⟩ := Prod.mk.inj (pure_eq_ok.1 h)
  rw [DecodedFrom, hd, hp]
  exact ⟨⟨hpb, trivial⟩, rfl⟩

theorem decodedFrom_byte {d : Byte → Indexed} (h : (do let o ← fetch (k + 1); return (d o, k + 2)) = .ok (m, n))
    (hd : ∀ o, encodeIndexed (d o) = [p, o]) : DecodedFrom fetch k n m := by
  obtain ⟨o, ho, h⟩ := bind_eq_ok.1 h
  obtain ⟨rfl, rfl⟩ := Prod.mk.inj (pure_eq_ok.1 h)
  rw [DecodedFrom, hd, hp]
  exact ⟨⟨hpb, ho, trivial⟩, rfl⟩

theorem decodedFrom_word {d : Word → Indexed} (h : (do let o ← fetch16 fetch (k + 1); return (d o, k + 3)) = .ok (m, n))
    (hd : ∀ o, encodeIndexed (d o) = [p, hiByte o, loByte o]) : DecodedFrom fetch k n m := by
  obtain ⟨o, ho, h⟩ := bind_eq_ok.1 h
  obtain ⟨rfl, rfl⟩ := Prod.mk.inj (pure_eq_ok.1 h)
  rw [DecodedFrom, hd, hp]
  exact ⟨⟨hpb, fetch16_ok.1 ho⟩, rfl⟩
end

/-- Whatever indexed operand is decoded, its bytes are those read: in each branch the postbyte read is the one that the
fields it was split into make up again. -/
theorem decodedFrom_of_decodeIndexed {m : Indexed} (h : decodeIndexed fetch undef k = .ok (m, n)) :
    DecodedFrom fetch k n m := by
  simp only [decodeIndexed, bind_eq_ok] at h
  obtain ⟨pb, hpb, h⟩ := h
  split at h
  case isTrue h7 => exact decodedFrom_postbyte hpb (offsetByte_of_fields h7) h rfl
  case isFalse h7 =>
    have hp {c : Nat} := modeByte_of_fields (c := c) (Bool.eq_true_of_not_eq_false h7)
    split at h
    case h_1 hc =>
      split at h
      case isTrue => cases h
      case isFalse hind => exact decodedFrom_postbyte hpb (hp hc) h (by rw [Bool.eq_false_iff.2 hind]; rfl)
    case h_3 hc =>
      split at h
      case isTrue => cases h
      case isFalse hind => exact decodedFrom_postbyte hpb (hp hc) h (by rw [Bool.eq_false_iff.2 hind]; rfl)
    case h_8 hc => exact decodedFrom_byte hpb (hp hc) h fun _ => rfl
    case h_9 hc => exact decodedFrom_word hpb (hp hc) h fun _ => rfl
    case h_11 hc => exact decodedFrom_byte hpb (hp hc) h fun _ => rfl
    case h_12 hc => exact decodedFrom_word hpb (hp hc) h fun _ => rfl
    case h_13 hc =>
      split at h
      case isTrue h9F => exact decodedFrom_word hpb h9F.symm h fun _ => rfl
      case isFalse => cases h
    case h_14 => cases h
    all_goals rename_i hc; exact decodedFrom_postbyte hpb (hp hc) h rfl

/-! ### Register pairs and register lists -/

theorem regOfCode_eq_some {c : BitVec 4} {r : Reg} : regOfCode c = some r ↔ r.code = c := by
  rcases r with r | r <;> cases r <;> revert c <;> decide

theorem nibbles_append (pb : Byte) : pb.extractLsb' 4 4 ++ pb.extractLsb' 0 4 = pb := by
  revert pb; decide

/-- The pairs of one width are the pairs that a postbyte can name, each by its own byte (R83). -/
theorem pairOfByte_eq_some {pb : Byte} {r1 r2 : Reg} :
    pairOfByte pb = some (r1, r2) ↔ r1.sameWidth r2 ∧ pairByte r1 r2 = pb := by
  constructor
  case mp =>
    intro h
    unfold pairOfByte at h
    split at h
    case h_3 => cases h
    all_goals
      rename_i h1 h2
      obtain ⟨rfl, rfl⟩ := Prod.mk.inj (Option.some.inj h)
      exact ⟨rfl, by rw [pairByte, regOfCode_eq_some.1 h1, regOfCode_eq_some.1 h2, nibbles_append]⟩
  case mpr =>
    rintro ⟨hw, rfl⟩
    match r1, r2, hw with
    | .r8 p, .r8 q, _ => cases p <;> cases q <;> rfl
    | .r16 p, .r16 q, _ => cases p <;> cases q <;> rfl

@[simp] theorem RegList.toByte_ofByte (pb : Byte) : (RegList.ofByte pb).toByte = pb := by
  revert pb; decide

@[simp] theorem RegList.ofByte_toByte (l : RegList) : RegList.ofByte l.toByte = l := by
  obtain ⟨pc, other, y, x, dp, b, a, cc⟩ := l
  revert pc other y x dp b a cc; decide

/-! ### Rows -/

/-- `ops` are the operand bytes with which a row of this form makes the instruction (R85). -/
inductive Operands : Template → Instr → List Byte → Prop
  | inherent (i : Instr) : Operands (.inherent i) i []
  | imm8 (f : Byte → Instr) (v : Byte) : Operands (.imm8 f) (f v) [v]
  | imm16 (f : Word → Instr) (v : Word) : Operands (.imm16 f) (f v) [hiByte v, loByte v]
  | direct (f : MemOperand → Instr) (a : Byte) : Operands (.direct f) (f (.direct a)) [a]
  | indexedMem (f : MemOperand → Instr) (m : Indexed) : Operands (.indexedMem f) (f (.indexed m)) (encodeIndexed m)
  | extended (f : MemOperand → Instr) (a : Word) : Operands (.extended f) (f (.extended a)) [hiByte a, loByte a]
  | indexed (f : Indexed → Instr) (m : Indexed) : Operands (.indexed f) (f m) (encodeIndexed m)
  | pair8 (f : Reg → Reg → Instr) (p q : Reg8) : Operands (.regPair f) (f (.r8 p) (.r8 q)) [pairByte (.r8 p) (.r8 q)]
  | pair16 (f : Reg → Reg → Instr) (p q : Reg16) :
    Operands (.regPair f) (f (.r16 p) (.r16 q)) [pairByte (.r16 p) (.r16 q)]
  | regList (f : RegList → Instr) (l : RegList) : Operands (.regList f) (f l) [l.toByte]

theorem operands_pair (f : Reg → Reg → Instr) {r1 r2 : Reg} (h : r1.sameWidth r2 = true) :
    Operands (.regPair f) (f r1 r2) [pairByte r1 r2] := by
  match r1, r2, h with
  | .r8 p, .r8 q, _ => exact .pair8 f p q
  | .r16 p, .r16 q, _ => exact .pair16 f p q

/-- At its own operand bytes a row makes the instruction. -/
theorem parse_of_operands {t : Template} {i : Instr} {ops : List Byte} (h : Operands t i ops)
    (hf : Fetches fetch k ops) : t.parse fetch undef k = .ok (i, k + ops.length) := by
  cases h with
  | inherent i => rfl
  | imm8 f v => rw [Template.parse, hf.1]; rfl
  | imm16 f v => rw [Template.parse, fetch16_ok.2 hf]; rfl
  | direct f a => rw [Template.parse, hf.1]; rfl
  | indexedMem f m => rw [Template.parse, decodeIndexed_of_fetches hf]; rfl
  | extended f a => rw [Template.parse, fetch16_ok.2 hf]; rfl
  | indexed f m => rw [Template.parse, decodeIndexed_of_fetches hf]; rfl
  | pair8 f p q =>
    have hpair : pairOfByte (pairByte (.r8 p) (.r8 q)) = some (.r8 p, .r8 q) := pairOfByte_eq_some.2 ⟨rfl, rfl⟩
    rw [Template.parse, hf.1]
    simp only [bind, Except.bind, hpair]
    rfl
  | pair16 f p q =>
    have hpair : pairOfByte (pairByte (.r16 p) (.r16 q)) = some (.r16 p, .r16 q) := pairOfByte_eq_some.2 ⟨rfl, rfl⟩
    rw [Template.parse, hf.1]
    simp only [bind, Except.bind, hpair]
    rfl
  | regList f l => rw [Template.parse, hf.1]; simp only [bind, Except.bind, RegList.ofByte_toByte]; rfl

/-- Whatever a row makes, it has read the operand bytes of it. -/
theorem operands_of_parse {t : Template} {i : Instr} (h : t.parse fetch undef k = .ok (i, n)) :
    ∃ ops, Operands t i ops ∧ Fetches fetch k ops ∧ n = k + ops.length := by
  cases t with
  | inherent j =>
    obtain ⟨rfl, rfl⟩ := Prod.mk.inj (pure_eq_ok.1 h)
    exact ⟨_, .inherent _, trivial, rfl⟩
  | imm8 f =>
    obtain ⟨v, hv, h⟩ := bind_eq_ok.1 h
    obtain ⟨rfl, rfl⟩ := Prod.mk.inj (pure_eq_ok.1 h)
    exact ⟨_, .imm8 f v, ⟨hv, trivial⟩, rfl⟩
  | imm16 f =>
    obtain ⟨v, hv, h⟩ := bind_eq_ok.1 h
    obtain ⟨rfl, rfl⟩ := Prod.mk.inj (pure_eq_ok.1 h)
    exact ⟨_, .imm16 f v, fetch16_ok.1 hv, rfl⟩
  | direct f =>
    obtain ⟨a, ha, h⟩ := bind_eq_ok.1 h
    obtain ⟨rfl, rfl⟩ := Prod.mk.inj (pure_eq_ok.1 h)
    exact ⟨_, .direct f a, ⟨ha, trivial⟩, rfl⟩
  | indexedMem f =>
    obtain ⟨⟨m, e⟩, hm, h⟩ := bind_eq_ok.1 h
    obtain ⟨rfl, rfl⟩ := Prod.mk.inj (pure_eq_ok.1 h)
    exact ⟨_, .indexedMem f m, decodedFrom_of_decodeIndexed hm⟩
  | extended f =>
    obtain ⟨a, ha, h⟩ := bind_eq_ok.1 h
    obtain ⟨rfl, rfl⟩ := Prod.mk.inj (pure_eq_ok.1 h)
    exact ⟨_, .extended f a, fetch16_ok.1 ha, rfl⟩
  | indexed f =>
    obtain ⟨⟨m, e⟩, hm, h⟩ := bind_eq_ok.1 h
    obtain ⟨rfl, rfl⟩ := Prod.mk.inj (pure_eq_ok.1 h)
    exact ⟨_, .indexed f m, decodedFrom_of_decodeIndexed hm⟩
  | regPair f =>
    obtain ⟨pb, hpb, h⟩ := bind_eq_ok.1 h
    split at h
    case h_1 r1 r2 hpair =>
      obtain ⟨rfl, rfl⟩ := Prod.mk.inj (pure_eq_ok.1 h)
      obtain ⟨hw, rfl⟩ := pairOfByte_eq_some.1 hpair
      exact ⟨_, operands_pair f hw, ⟨hpb, trivial⟩, rfl⟩
    case h_2 => cases h
  | regList f =>
    obtain ⟨pb, hpb, h⟩ := bind_eq_ok.1 h
    obtain ⟨rfl, rfl⟩ := Prod.mk.inj (pure_eq_ok.1 h)
    exact ⟨_, .regList f _, ⟨by rw [RegList.toByte_ofByte, hpb], trivial⟩, rfl⟩

theorem parse_ok {t : Template} {i : Instr} :
    t.parse fetch undef k = .ok (i, n) ↔ ∃ ops, Operands t i ops ∧ Fetches fetch k ops ∧ n = k + ops.length := by
  constructor
  case mp => exact operands_of_parse
  case mpr =>
    rintro ⟨ops, h, hf, rfl⟩
    exact parse_of_operands h hf

/-! ### Looking up a row -/

theorem lookupRow_eq_none {op : Byte} {rows : List Row} : lookupRow op rows = none ↔ op ∉ rows.map Row.op := by
  induction rows with
  | nil => simp [lookupRow]
  | cons r rows ih =>
    rw [lookupRow]
    split
    case isTrue h => simp [h]
    case isFalse h => simpa [Ne.symm h] using ih

theorem mem_of_lookupRow {op : Byte} {rows : List Row} {t : Template} (h : lookupRow op rows = some t) :
    ⟨op, t⟩ ∈ rows := by
  induction rows with
  | nil => cases h
  | cons r rows ih =>
    rw [lookupRow] at h
    split at h
    case isTrue hop =>
      obtain rfl := Option.some.inj h
      exact hop ▸ List.mem_cons_self
    case isFalse => exact List.mem_cons_of_mem _ (ih h)

theorem lookupRow_append (op : Byte) (xs ys : List Row) :
    lookupRow op (xs ++ ys) = (lookupRow op xs).or (lookupRow op ys) := by
  induction xs with
  | nil => rfl
  | cons r xs ih =>
    rw [List.cons_append, lookupRow, lookupRow]
    split
    case isTrue => rfl
    case isFalse => exact ih

/-- The parts in which the opcode map of a page is written. -/
def Page.parts : Page → List (List Row)
  | .page1 =>
    [page1Rows01, page1Rows23, page1Rows45, page1Rows67, page1Rows89, page1RowsAB, page1RowsCD, page1RowsEF]
  | .page2 => [page2Rows]
  | .page3 => [page3Rows]

theorem Page.flatten_parts (page : Page) : page.parts.flatten = page.rows := by
  cases page
  case page1 => simp only [parts, rows, page1Rows, List.flatten_cons, List.flatten_nil, List.append_nil, List.append_assoc]
  case page2 => exact List.flatten_singleton
  case page3 => exact List.flatten_singleton

/-- The row of an opcode, looked up part by part: this evaluates without walking through a whole page. -/
def Page.lookup (page : Page) (op : Byte) : Option Template := page.parts.findSome? (lookupRow op)

theorem lookupRow_rows (op : Byte) (page : Page) : lookupRow op page.rows = page.lookup op := by
  rw [← page.flatten_parts, Page.lookup]
  induction page.parts with
  | nil => rfl
  | cons p parts ih =>
    rw [List.flatten_cons, lookupRow_append, ih, List.findSome?_cons]
    cases lookupRow op p <;> rfl

theorem Page.mem_rows_of_lookup {page : Page} {op : Byte} {t : Template} (h : page.lookup op = some t) :
    ⟨op, t⟩ ∈ page.rows :=
  mem_of_lookupRow (lookupRow_rows op page ▸ h)

/-- The 33 opcodes of page 1 without a meaning (R88). -/
def undefinedPage1 : List Byte :=
  [0x01, 0x02, 0x05, 0x0B, 0x14, 0x15, 0x18, 0x1B, 0x38, 0x3E, 0x41, 0x42, 0x45, 0x4B, 0x4E, 0x51, 0x52, 0x55,
   0x5B, 0x5E, 0x61, 0x62, 0x65, 0x6B, 0x71, 0x72, 0x75, 0x7B, 0x87, 0x8F, 0xC7, 0xCD, 0xCF]

/-- The 32 opcodes from `32 * j` on. -/
def opcodeBlock (j : Nat) : List Byte := (List.range 32).map fun k => BitVec.ofNat 8 (32 * j + k)

theorem mem_opcodeBlock (op : Byte) : op ∈ ((List.range 8).map opcodeBlock).flatten := by
  have hop := op.isLt
  simp only [opcodeBlock, List.mem_flatten, List.mem_map, List.mem_range, exists_exists_and_eq_and]
  exact ⟨op.toNat / 32, by omega, op.toNat % 32, by omega, BitVec.eq_of_toNat_eq (by rw [BitVec.toNat_ofNat]; omega)⟩

/-- Each part of page 1 lists the opcodes of its block that are neither page bytes nor undefined. -/
theorem page1_parts_ops :
    Page.page1.parts.map (List.map Row.op) =
      ((List.range 8).map opcodeBlock).map (List.filter (· ∉ 0x10 :: 0x11 :: undefinedPage1)) := by
  decide

/-- The opcodes with a row on page 1 are the bytes other than $10, $11 and the 33 of R88 (R86). -/
theorem mem_page1_ops {op : Byte} : op ∈ Page.page1.rows.map Row.op ↔ op ∉ 0x10 :: 0x11 :: undefinedPage1 := by
  rw [← Page.flatten_parts, List.map_flatten, page1_parts_ops, ← List.filter_flatten, List.mem_filter, decide_eq_true_iff]
  exact and_iff_right (mem_opcodeBlock op)

/-- The page bytes $10 and $11 have no row of their own on page 1 (R85). -/
theorem ne_pageByte_of_lookup {op : Byte} {t : Template} (h : Page.page1.lookup op = some t) :
    op ≠ 0x10#8 ∧ op ≠ 0x11#8 := by
  have hmem := mem_page1_ops.1 (List.mem_map.2 ⟨_, Page.mem_rows_of_lookup h, rfl⟩)
  exact ⟨fun h10 => hmem (h10 ▸ List.mem_cons_self), fun h11 => hmem (h11 ▸ List.mem_cons_of_mem _ List.mem_cons_self)⟩

/-! ### Decoding as a whole -/

/-- `bs` are the bytes of a row of the opcode maps and of its operands, and make the instruction (R85). -/
inductive Spelled : Instr → List Byte → Prop
  | row {page : Page} {op : Byte} {t : Template} {i : Instr} {ops : List Byte} (hrow : page.lookup op = some t)
    (hops : Operands t i ops) : Spelled i (opcodeBytes page op ++ ops)

theorem decodeOpcode_ok {page : Page} {op : Byte} {i : Instr} :
    decodeOpcode fetch undef page op k = .ok (i, n) ↔
      ∃ t, page.lookup op = some t ∧ t.parse fetch undef k = .ok (i, n) := by
  rw [decodeOpcode, lookupRow_rows]
  cases page.lookup op with
  | none => simp [throw, throwThe, MonadExceptOf.throw]
  | some t => simp

/-- The decoder finds page and opcode in the first byte or the first two (R85). -/
theorem decodeFrom_of_opcode {page : Page} {op : Byte} (hop : Fetches fetch 0 (opcodeBytes page op))
    (hpage : page = .page1 → op ≠ 0x10#8 ∧ op ≠ 0x11#8) :
    decodeFrom fetch undef = decodeOpcode fetch undef page op (opcodeBytes page op).length := by
  unfold decodeFrom
  cases page with
  | page1 =>
    obtain ⟨h10, h11⟩ := hpage rfl
    rw [hop.1]
    simp only [bind, Except.bind, if_neg h10, if_neg h11]
    rfl
  | page2 => rw [hop.1]; simp only [bind, Except.bind, hop.2.1]; rfl
  | page3 => rw [hop.1]; simp only [bind, Except.bind, hop.2.1]; rfl

/-- The decoder stops at a byte it cannot read, or it has read a page and an opcode and goes on from there. -/
theorem decodeFrom_cases (fetch : Nat → Except ε Byte) (undef : Undefined → ε) :
    (∃ j e, fetch j = .error e ∧ decodeFrom fetch undef = .error e) ∨
      ∃ page op, Fetches fetch 0 (opcodeBytes page op) ∧ (page = .page1 → op ≠ 0x10#8 ∧ op ≠ 0x11#8) ∧
        decodeFrom fetch undef = decodeOpcode fetch undef page op (opcodeBytes page op).length := by
  cases h0 : fetch 0 with
  | error e => exact .inl ⟨0, e, h0, by rw [decodeFrom, h0]; rfl⟩
  | ok b =>
    by_cases h10 : b = 0x10#8
    case pos =>
      subst h10
      cases h1 : fetch 1 with
      | error e => exact .inl ⟨1, e, h1, by rw [decodeFrom, h0]; simp only [bind, Except.bind, h1]; rfl⟩
      | ok op => exact .inr ⟨.page2, op, ⟨h0, h1, trivial⟩, nofun, decodeFrom_of_opcode ⟨h0, h1, trivial⟩ nofun⟩
    case neg =>
      by_cases h11 : b = 0x11#8
      case pos =>
        subst h11
        cases h1 : fetch 1 with
        | error e => exact .inl ⟨1, e, h1, by rw [decodeFrom, h0]; simp only [bind, Except.bind, h1]; rfl⟩
        | ok op => exact .inr ⟨.page3, op, ⟨h0, h1, trivial⟩, nofun, decodeFrom_of_opcode ⟨h0, h1, trivial⟩ nofun⟩
      case neg =>
        exact .inr ⟨.page1, b, ⟨h0, trivial⟩, fun _ => ⟨h10, h11⟩,
          decodeFrom_of_opcode ⟨h0, trivial⟩ fun _ => ⟨h10, h11⟩⟩

/-- The decoder reads an instruction exactly where the bytes of a row for it stand, and reads those bytes (R85). -/
theorem decodeFrom_ok {i : Instr} :
    decodeFrom fetch undef = .ok (i, n) ↔ ∃ bs, Spelled i bs ∧ Fetches fetch 0 bs ∧ n = bs.length := by
  constructor
  case mp =>
    intro h
    rcases decodeFrom_cases fetch undef with ⟨j, e, _, he⟩ | ⟨page, op, hop, _, hdec⟩
    · rw [he] at h; cases h
    rw [hdec] at h
    obtain ⟨t, hrow, hparse⟩ := decodeOpcode_ok.1 h
    obtain ⟨ops, hops, hf, rfl⟩ := parse_ok.1 hparse
    exact ⟨_, .row hrow hops, fetches_append.2 ⟨hop, by rwa [Nat.zero_add]⟩, List.length_append.symm⟩
  case mpr =>
    rintro ⟨_, @⟨page, op, t, i, ops, hrow, hops⟩, hf, rfl⟩
    obtain ⟨hop, hf⟩ := fetches_append.1 hf
    rw [Nat.zero_add] at hf
    rw [decodeFrom_of_opcode hop (by rintro rfl; exact ne_pageByte_of_lookup hrow), List.length_append]
    exact decodeOpcode_ok.2 ⟨t, hrow, parse_of_operands hops hf⟩

/-! ### The instructions -/

theorem spelled_inherent {page : Page} {op : Byte} {i : Instr} (h : page.lookup op = some (.inherent i)) :
    Spelled i (opcodeBytes page op) := by
  simpa using Spelled.row h (.inherent i)

theorem spelled_imm8 {page : Page} {op : Byte} {f : Byte → Instr} (h : page.lookup op = some (.imm8 f)) (v : Byte) :
    Spelled (f v) (opcodeBytes page op ++ [v]) := .row h (.imm8 f v)

theorem spelled_imm16 {page : Page} {op : Byte} {f : Word → Instr} (h : page.lookup op = some (.imm16 f))
    (v : Word) : Spelled (f v) (opcodeBytes page op ++ [hiByte v, loByte v]) := .row h (.imm16 f v)

theorem spelled_indexed {page : Page} {op : Byte} {f : Indexed → Instr} (h : page.lookup op = some (.indexed f))
    (m : Indexed) : Spelled (f m) (opcodeBytes page op ++ encodeIndexed m) := .row h (.indexed f m)

theorem spelled_regPair {page : Page} {op : Byte} {f : Reg → Reg → Instr} {r1 r2 : Reg}
    (h : page.lookup op = some (.regPair f)) (hw : r1.sameWidth r2 = true) :
    Spelled (f r1 r2) (opcodeBytes page op ++ [pairByte r1 r2]) := .row h (operands_pair f hw)

theorem spelled_regList {page : Page} {op : Byte} {f : RegList → Instr} (h : page.lookup op = some (.regList f))
    (l : RegList) : Spelled (f l) (opcodeBytes page op ++ [l.toByte]) := .row h (.regList f l)

/-- The three rows of an instruction with a memory operand. -/
theorem spelled_mem {page : Page} {dir idx ext : Byte} {f : MemOperand → Instr} (m : MemOperand)
    (hdir : page.lookup dir = some (.direct f)) (hidx : page.lookup idx = some (.indexedMem f))
    (hext : page.lookup ext = some (.extended f)) : Spelled (f m) (encodeMem page dir idx ext m) := by
  cases m with
  | direct a => exact .row hdir (.direct f a)
  | indexed m => exact .row hidx (.indexedMem f m)
  | extended a => exact .row hext (.extended f a)

/-- The four rows of an instruction with an 8-bit source. -/
theorem spelled_src8 {page : Page} {imm dir idx ext : Byte} {f : Src8 → Instr} (src : Src8)
    (himm : page.lookup imm = some (.imm8 fun v => f (.imm v)))
    (hdir : page.lookup dir = some (.direct fun m => f (.mem m)))
    (hidx : page.lookup idx = some (.indexedMem fun m => f (.mem m)))
    (hext : page.lookup ext = some (.extended fun m => f (.mem m))) :
    Spelled (f src) (encodeSrc8 page imm dir idx ext src) := by
  cases src with
  | imm v => exact spelled_imm8 (f := fun v => f (.imm v)) himm v
  | mem m => exact spelled_mem (f := fun m => f (.mem m)) m hdir hidx hext

/-- The four rows of an instruction with a 16-bit source. -/
theorem spelled_src16 {page : Page} {imm dir idx ext : Byte} {f : Src16 → Instr} (src : Src16)
    (himm : page.lookup imm = some (.imm16 fun v => f (.imm v)))
    (hdir : page.lookup dir = some (.direct fun m => f (.mem m)))
    (hidx : page.lookup idx = some (.indexedMem fun m => f (.mem m)))
    (hext : page.lookup ext = some (.extended fun m => f (.mem m))) :
    Spelled (f src) (encodeSrc16 page imm dir idx ext src) := by
  cases src with
  | imm v => exact spelled_imm16 (f := fun v => f (.imm v)) himm v
  | mem m => exact spelled_mem (f := fun m => f (.mem m)) m hdir hidx hext

end

/-- The encoding of a well-formed instruction is spelled by a row for its first name: the encoder's table, read against the
opcode maps (R86, R87, R91). -/
theorem spelled_encode {i : Instr} (h : i.WellFormed) : Spelled i.canonical (encode i) := by
  match i with
  | .exg _ _ | .tfr _ _ => exact spelled_regPair rfl h
  | .pshs l | .pshu l | .puls l | .pulu l => exact spelled_regList rfl l
  | .leas m | .leau m | .leax m | .leay m => exact spelled_indexed rfl m
  | .abx | .asla | .aslb | .asra | .asrb | .clra | .clrb | .coma | .comb | .daa | .deca | .decb | .inca | .incb | .lsla
  | .lslb | .lsra | .lsrb | .mul | .nega | .negb | .nop | .rola | .rolb | .rora | .rorb | .rti | .rts | .sex | .swi
  | .swi2 | .swi3 | .sync | .tsta | .tstb => rw [encode]; exact spelled_inherent rfl
  | .andcc v | .cwai v | .orcc v | .bcc v | .bcs v | .beq v | .bge v | .bgt v | .bhi v | .bhs v | .ble v | .blo v | .bls v
  | .blt v | .bmi v | .bne v | .bpl v | .bra v | .brn v | .bsr v | .bvc v | .bvs v => exact spelled_imm8 rfl v
  | .lbcc v | .lbcs v | .lbeq v | .lbge v | .lbgt v | .lbhi v | .lbhs v | .lble v | .lblo v | .lbls v | .lblt v | .lbmi v
  | .lbne v | .lbpl v | .lbra v | .lbrn v | .lbsr v | .lbvc v | .lbvs v => exact spelled_imm16 rfl v
  | .asl m | .asr m | .clr m | .com m | .dec m | .inc m | .jmp m | .jsr m | .lsl m | .lsr m | .neg m | .rol m | .ror m
  | .sta m | .stb m | .std m | .sts m | .stu m | .stx m | .sty m | .tst m => exact spelled_mem m rfl rfl rfl
  | .adca src | .adcb src | .adda src | .addb src | .anda src | .andb src | .bita src | .bitb src | .cmpa src | .cmpb src
  | .eora src | .eorb src | .lda src | .ldb src | .ora src | .orb src | .sbca src | .sbcb src | .suba src
  | .subb src => exact spelled_src8 src rfl rfl rfl rfl
  | .addd src | .cmpd src | .cmps src | .cmpu src | .cmpx src | .cmpy src | .ldd src | .lds src | .ldu src | .ldx src
  | .ldy src | .subd src => exact spelled_src16 src rfl rfl rfl rfl

/-- `i` is a well-formed first name, and `bs` is its encoding. -/
def IsEncoding (i : Instr) (bs : List Byte) : Prop := i.WellFormed ∧ i.canonical = i ∧ encode i = bs

/-- Whatever the operand bytes of the row, the instruction it makes is encoded as the row's opcode and those bytes. -/
def Row.Faithful (page : Page) (r : Row) : Prop :=
  ∀ i ops, Operands r.form i ops → IsEncoding i (opcodeBytes page r.op ++ ops)

/-- The opcode maps, read row by row against the encoder's table (R86, R87): the encoder gives back the row's opcode and its
operand bytes. -/
theorem rows_faithful (page : Page) : ∀ r ∈ page.rows, r.Faithful page := by
  rw [← page.flatten_parts]
  cases page
  all_goals
    simp only [Page.parts, page1Rows01, page1Rows23, page1Rows45, page1Rows67, page1Rows89, page1RowsAB, page1RowsCD,
      page1RowsEF, page2Rows, page3Rows, List.flatten_cons, List.flatten_nil, List.forall_mem_append,
      List.forall_mem_cons, List.not_mem_nil, false_implies, implies_true, and_true]
    and_intros
  all_goals rintro i ops ⟨⟩
  all_goals exact ⟨rfl, rfl, rfl⟩

/-- What a row spells is the encoding of the instruction it makes. -/
theorem Spelled.isEncoding {i : Instr} {bs : List Byte} (h : Spelled i bs) : IsEncoding i bs := by
  obtain @⟨page, op, t, i, ops, hrow, hops⟩ := h
  exact rows_faithful page _ (Page.mem_rows_of_lookup hrow) i ops hops

/-! ### Lists of bytes -/

theorem byteAt_ok {bs : List Byte} {k : Nat} {b : Byte} : byteAt bs k = .ok b ↔ bs[k]? = some b := by
  unfold byteAt
  split <;> simp_all

theorem fetches_byteAt {bs ops : List Byte} {k : Nat} : Fetches (byteAt bs) k ops ↔ ∃ rest, bs.drop k = ops ++ rest := by
  induction ops generalizing k with
  | nil => simp
  | cons b ops ih =>
    rw [fetches_cons, ih, byteAt_ok]
    constructor
    · rintro ⟨hb, rest, h⟩
      obtain ⟨hk, rfl⟩ := List.getElem?_eq_some_iff.1 hb
      exact ⟨rest, by rw [List.drop_eq_getElem_cons hk, h]; rfl⟩
    · rintro ⟨rest, h⟩
      have hk : bs[k]? = some b := by rw [← Nat.add_zero k, ← List.getElem?_drop, h]; rfl
      have := congrArg List.tail h
      exact ⟨hk, rest, by simpa using this⟩

/-- `decode` reads an instruction exactly from the lists that begin with the bytes of a row for it (R85). -/
theorem decode_ok {bs : List Byte} {i : Instr} {n : Nat} :
    decode bs = .ok (i, n) ↔ ∃ ops rest, Spelled i ops ∧ bs = ops ++ rest ∧ n = ops.length := by
  unfold decode
  rw [decodeFrom_ok]
  simp only [fetches_byteAt, List.drop_zero]
  constructor
  · rintro ⟨ops, h, ⟨rest, hb⟩, hn⟩
    exact ⟨ops, rest, h, hb, hn⟩
  · rintro ⟨ops, rest, h, hb, hn⟩
    exact ⟨ops, h, ⟨rest, hb⟩, hn⟩

/-- Settles O1: the encoding is spelled by a row for the first name, and the decoder reads what a row spells. -/
theorem encodedInstructionsDecodeBack : Obligations.EncodedInstructionsDecodeBack := by
  intro i rest hwf
  exact decode_ok.2 ⟨encode i, rest, spelled_encode hwf, rfl, rfl⟩

/-- Settles O2: the decoder reads only what a row spells, and every row is faithful to the encoder. -/
theorem decodedBytesEncodeBack : Obligations.DecodedBytesEncodeBack := by
  intro bs i n h
  obtain ⟨ops, rest, hspelled, rfl, rfl⟩ := decode_ok.1 h
  obtain ⟨hwf, hname, hops⟩ := hspelled.isEncoding
  exact ⟨hwf, hname, by simp, by rw [hops, List.take_left]⟩

end Sys2Proof
end

section
/-! PROOFS. Encodings without a meaning, register pairs and second names (spec/30_encoding.md R80, R83, R88, R89, R91). -/

namespace Sys2Proof

open Machine

/-! ### Where decoding fails -/

theorem bind_eq_error {ε α β : Type} {r : Except ε α} {f : α → Except ε β} {e : ε} :
    (r >>= f) = .error e ↔ r = .error e ∨ ∃ a, r = .ok a ∧ f a = .error e := by
  cases r with
  | ok a => simp [bind, Except.bind]
  | error d => simp [bind, Except.bind]

/-- What follows a read and cannot fail does not fail. -/
theorem error_of_bind_pure {ε α β : Type} {r : Except ε α} {f : α → β} {e : ε}
    (h : (r >>= fun a => pure (f a)) = .error e) : r = .error e := by
  rcases bind_eq_error.1 h with h | ⟨a, _, ha⟩
  · exact h
  · cases ha

/-- The postbytes without a meaning: bit 7 set, and by MODE and the indirect bit no form (R80). -/
def meaningless (pb : Byte) : Bool :=
  pb.getLsbD 7 &&
    match (pb.extractLsb' 0 4).toNat with
    | 0 | 2 => pb.getLsbD 4
    | 15 => pb != 0x9F#8
    | 1 | 3 | 4 | 5 | 6 | 8 | 9 | 11 | 12 | 13 => false
    | _ => true

/-- The 39 postbytes that R80 lists. -/
def undefinedPostbytes : List Byte :=
  [0x87, 0x8A, 0x8E, 0x8F, 0x90, 0x92, 0x97, 0x9A, 0x9E, 0xA7, 0xAA, 0xAE, 0xAF, 0xB0, 0xB2, 0xB7, 0xBA, 0xBE,
   0xBF, 0xC7, 0xCA, 0xCE, 0xCF, 0xD0, 0xD2, 0xD7, 0xDA, 0xDE, 0xDF, 0xE7, 0xEA, 0xEE, 0xEF, 0xF0, 0xF2, 0xF7,
   0xFA, 0xFE, 0xFF]

theorem meaningless_iff (pb : Byte) : meaningless pb = true ↔ pb ∈ undefinedPostbytes := by
  revert pb; decide

section
variable {ε : Type} {fetch : Nat → Except ε Byte} {undef : Undefined → ε} {k : Nat} {pb : Byte} {e : ε}

theorem fetch_error_of_fetch16 (h : fetch16 fetch k = .error e) : ∃ j, fetch j = .error e := by
  rcases bind_eq_error.1 h with hhi | ⟨hi, _, h⟩
  · exact ⟨k, hhi⟩
  · exact ⟨k + 1, error_of_bind_pure h⟩

/-- A postbyte without a meaning stops the decoder by name. -/
theorem decodeIndexed_of_meaningless (hpb : fetch k = .ok pb) (h : meaningless pb = true) :
    decodeIndexed fetch undef k = .error (undef (.indexedPostbyte pb)) := by
  obtain ⟨h7, hmode⟩ := (Bool.and_eq_true _ _).mp h
  rw [decodeIndexed, hpb]
  simp only [bind, Except.bind, h7, Bool.true_eq_false, if_false]
  split
  case h_1 h0 => simp only [h0] at hmode; simp only [hmode]; rfl
  case h_3 h2 => simp only [h2] at hmode; simp only [hmode]; rfl
  case h_13 h15 => simp only [h15] at hmode; rw [if_neg (bne_iff_ne.1 hmode)]; rfl
  case h_14 => rfl
  all_goals rename_i hc; simp only [hc] at hmode; cases hmode

/-- Any other postbyte starts an operand, so that only a byte that cannot be read stops the decoder. -/
theorem fetch_error_of_decodeIndexed (hpb : fetch k = .ok pb) (h : meaningless pb = false)
    (he : decodeIndexed fetch undef k = .error e) : ∃ j, fetch j = .error e := by
  rw [decodeIndexed, hpb] at he
  simp only [bind, Except.bind] at he
  split at he
  case isTrue => cases he
  case isFalse h7 =>
    simp only [meaningless, Bool.eq_true_of_not_eq_false h7, Bool.true_and] at h
    split at he
    case h_1 h0 => simp only [h0] at h; rw [h] at he; cases he
    case h_3 h2 => simp only [h2] at h; rw [h] at he; cases he
    case h_8 => exact ⟨_, error_of_bind_pure he⟩
    case h_11 => exact ⟨_, error_of_bind_pure he⟩
    case h_9 => exact fetch_error_of_fetch16 (error_of_bind_pure he)
    case h_12 => exact fetch_error_of_fetch16 (error_of_bind_pure he)
    case h_13 h15 =>
      simp only [h15, bne_eq_false_iff_eq] at h
      rw [if_pos h] at he
      exact fetch_error_of_fetch16 (error_of_bind_pure he)
    case h_14 =>
      simp only [*] at h
      cases h
    all_goals cases he

/-- An indexed operand fails at a byte that cannot be read or at its postbyte. -/
theorem decodeIndexed_error (h : decodeIndexed fetch undef k = .error e) :
    (∃ j, fetch j = .error e) ∨ ∃ pb, e = undef (.indexedPostbyte pb) := by
  cases hpb : fetch k with
  | error d =>
    rw [decodeIndexed, hpb] at h
    cases h
    exact .inl ⟨k, hpb⟩
  | ok pb =>
    cases hm : meaningless pb with
    | false => exact .inl (fetch_error_of_decodeIndexed hpb hm h)
    | true =>
      rw [decodeIndexed_of_meaningless hpb hm] at h
      exact .inr ⟨pb, (Except.error.inj h).symm⟩

/-- The operands of a row fail at a byte that cannot be read or at a postbyte. -/
theorem parse_error {t : Template} (h : t.parse fetch undef k = .error e) :
    (∃ j, fetch j = .error e) ∨ (∃ pb, e = undef (.indexedPostbyte pb)) ∨ ∃ pb, e = undef (.registerPair pb) := by
  cases t with
  | inherent i => cases h
  | imm8 f => exact .inl ⟨k, error_of_bind_pure h⟩
  | imm16 f => exact .inl (fetch_error_of_fetch16 (error_of_bind_pure h))
  | direct f => exact .inl ⟨k, error_of_bind_pure h⟩
  | indexedMem f => exact (decodeIndexed_error (error_of_bind_pure h)).imp_right .inl
  | extended f => exact .inl (fetch_error_of_fetch16 (error_of_bind_pure h))
  | indexed f => exact (decodeIndexed_error (error_of_bind_pure h)).imp_right .inl
  | regPair f =>
    rcases bind_eq_error.1 h with hpb | ⟨pb, _, h⟩
    · exact .inl ⟨k, hpb⟩
    · split at h
      case h_1 => cases h
      case h_2 => exact .inr (.inr ⟨pb, (Except.error.inj h).symm⟩)
  | regList f => exact .inl ⟨k, error_of_bind_pure h⟩

end

/-- A list of bytes fails to give a byte only by ending. -/
theorem byteAt_error {bs : List Byte} {k : Nat} {e : DecodeError} (h : byteAt bs k = .error e) : e = .truncated := by
  unfold byteAt at h
  split at h
  case h_1 => cases h
  case h_2 => exact (Except.error.inj h).symm

/-! ### Undefined opcodes -/

/-- The decoder names an opcode as undefined exactly where the page has no row for it (R88). -/
theorem decodeOpcode_undefined {bs : List Byte} {page page' : Page} {op op' : Byte} {k : Nat} :
    decodeOpcode (byteAt bs) .undefined page op k = .error (.undefined (.opcode page' op')) ↔
      op ∉ page.rows.map Row.op ∧ page = page' ∧ op = op' := by
  rw [← lookupRow_eq_none, decodeOpcode]
  cases lookupRow op page.rows with
  | none => simp [throw, throwThe, MonadExceptOf.throw]
  | some t =>
    simp only [reduceCtorEq, false_and, iff_false]
    intro h
    rcases parse_error h with ⟨j, hj⟩ | ⟨pb, hpb⟩ | ⟨pb, hpb⟩
    · cases byteAt_error hj
    · cases hpb
    · cases hpb

/-- A list of bytes is refused for an opcode exactly if it begins with that page and opcode, and the page has no row for
it (R85, R88, R89). -/
theorem decode_undefinedOpcode {bs : List Byte} {page : Page} {op : Byte} :
    decode bs = .error (.undefined (.opcode page op)) ↔
      Fetches (byteAt bs) 0 (opcodeBytes page op) ∧ (page = .page1 → op ≠ 0x10#8 ∧ op ≠ 0x11#8) ∧
        op ∉ page.rows.map Row.op := by
  constructor
  case mp =>
    intro h
    rcases decodeFrom_cases (byteAt bs) .undefined with ⟨j, e, hj, he⟩ | ⟨page', op', hop, hpage, hdec⟩
    · rw [decode, he, byteAt_error hj] at h
      cases h
    · rw [decode, hdec] at h
      obtain ⟨hrow, rfl, rfl⟩ := decodeOpcode_undefined.1 h
      exact ⟨hop, hpage, hrow⟩
  case mpr =>
    rintro ⟨hop, hpage, hrow⟩
    rw [decode, decodeFrom_of_opcode hop hpage]
    exact decodeOpcode_undefined.2 ⟨hrow, rfl, rfl⟩

/-- A first byte that is no page byte and has no row is one of the 33 of R88. -/
theorem undefinedPage1_iff {op : Byte} :
    (op ≠ 0x10#8 ∧ op ≠ 0x11#8) ∧ op ∉ Page.page1.rows.map Row.op ↔ op ∈ undefinedPage1 := by
  have hpages : 0x10#8 ∉ undefinedPage1 ∧ 0x11#8 ∉ undefinedPage1 := by decide
  rw [mem_page1_ops, not_not, List.mem_cons, List.mem_cons]
  constructor
  · rintro ⟨⟨h10, h11⟩, h⟩
    exact (h.resolve_left h10).resolve_left h11
  · intro h
    exact ⟨⟨fun h10 => hpages.1 (h10 ▸ h), fun h11 => hpages.2 (h11 ▸ h)⟩, .inr (.inr h)⟩

/-- Settles O4: an opcode is refused where its page has no row, and the rows of each page are counted out. -/
theorem opcodesWithoutARowAreUndefined : Obligations.OpcodesWithoutARowAreUndefined := by
  intro op rest
  refine ⟨?page1, ?page2, ?page3⟩
  case page1 =>
    rw [decode_undefinedOpcode, and_iff_right ⟨rfl, trivial⟩, forall_prop_of_true rfl]
    exact undefinedPage1_iff
  case page2 =>
    rw [decode_undefinedOpcode, and_iff_right ⟨rfl, rfl, trivial⟩, and_iff_right nofun]
    exact Iff.rfl
  case page3 =>
    rw [decode_undefinedOpcode, and_iff_right ⟨rfl, rfl, trivial⟩, and_iff_right nofun]
    exact Iff.rfl

/-- Settles O5: the postbytes without a meaning by their fields (R80) are the 39 listed, and both operand templates pass
the fault on. -/
theorem indexedPostbytesWithoutAMeaning : Obligations.IndexedPostbytesWithoutAMeaning := by
  intro bs k pb hpb
  have hpb' := byteAt_ok.2 hpb
  refine ⟨?iff, fun f h => by rw [Template.parse, h]; rfl, fun f h => by rw [Template.parse, h]; rfl⟩
  refine Iff.trans ⟨fun h => ?_, decodeIndexed_of_meaningless hpb'⟩ (meaningless_iff pb)
  by_contra hm
  obtain ⟨j, hj⟩ := fetch_error_of_decodeIndexed hpb' (Bool.eq_false_iff.2 hm) h
  cases byteAt_error hj

/-! ### Register pairs -/

/-- The registers of the 4-bit codes 0 to 11 (R83). -/
def codeTable : List (Option Reg) :=
  [some (.r16 .d), some (.r16 .x), some (.r16 .y), some (.r16 .u), some (.r16 .s), some (.r16 .pc), none, none,
   some (.r8 .a), some (.r8 .b), some (.r8 .cc), some (.r8 .dp)]

theorem regOfCode_eq_codeTable (c : BitVec 4) : regOfCode c = codeTable.getD c.toNat none := by
  revert c; decide

theorem highNibble_toNat (pb : Byte) : (pb.extractLsb' 4 4).toNat = pb.toNat / 16 := by
  have := pb.isLt
  rw [BitVec.extractLsb'_toNat, Nat.shiftRight_eq_div_pow]
  omega

theorem lowNibble_toNat (pb : Byte) : (pb.extractLsb' 0 4).toNat = pb.toNat % 16 := by
  rw [BitVec.extractLsb'_toNat, Nat.shiftRight_zero]

theorem nibbles_of_append (c d : BitVec 4) : (c ++ d).extractLsb' 4 4 = c ∧ (c ++ d).extractLsb' 0 4 = d := by
  revert c d; decide

/-- The two nibbles of a postbyte give its pair, if both name registers and these are of one width (R83). -/
theorem pairOfByte_iff_codes {pb : Byte} {r1 r2 : Reg} : pairOfByte pb = some (r1, r2) ↔
    r1.sameWidth r2 ∧ regOfCode (pb.extractLsb' 4 4) = some r1 ∧ regOfCode (pb.extractLsb' 0 4) = some r2 := by
  rw [pairOfByte_eq_some, regOfCode_eq_some, regOfCode_eq_some]
  refine and_congr_right fun _ => ⟨?_, fun ⟨h1, h2⟩ => by rw [pairByte, h1, h2, nibbles_append]⟩
  rintro rfl
  obtain ⟨hhi, hlo⟩ := nibbles_of_append r1.code r2.code
  exact ⟨hhi.symm, hlo.symm⟩

theorem pairOfByte_eq_none {pb : Byte} (h : ∀ r1 r2, regOfCode (pb.extractLsb' 4 4) = some r1 →
    regOfCode (pb.extractLsb' 0 4) = some r2 → ¬r1.sameWidth r2 = true) : pairOfByte pb = none := by
  rw [Option.eq_none_iff_forall_ne_some]
  rintro ⟨r1, r2⟩ hpair
  obtain ⟨hw, h1, h2⟩ := pairOfByte_iff_codes.1 hpair
  exact h r1 r2 h1 h2 hw

section
variable {op pb : Byte} {f : Reg → Reg → Instr} (hrow : Page.page1.lookup op = some (.regPair f)) (rest : List Byte)
include hrow

theorem decode_of_pair {r1 r2 : Reg} (h : pairOfByte pb = some (r1, r2)) :
    decode (op :: pb :: rest) = .ok (f r1 r2, 2) := by
  obtain ⟨hw, rfl⟩ := pairOfByte_eq_some.1 h
  exact decode_ok.2 ⟨_, rest, spelled_regPair hrow hw, rfl, rfl⟩

theorem decode_of_no_pair (h : pairOfByte pb = none) :
    decode (op :: pb :: rest) = .error (.undefined (.registerPair pb)) := by
  have hpb : byteAt (op :: pb :: rest) 1 = .ok pb := rfl
  rw [decode, decodeFrom_of_opcode (page := .page1) ⟨rfl, trivial⟩ fun _ => ne_pageByte_of_lookup hrow, decodeOpcode,
    lookupRow_rows, hrow]
  change Template.parse _ _ 1 _ = _
  rw [Template.parse, hpb]
  simp only [bind, Except.bind, h]
  rfl

end

/-- Settles O6: the two nibbles of the postbyte name registers of one width, of two widths, or not both a register; and a
term of two widths faults in `exec` too. -/
theorem registerPairPostbytes : Obligations.RegisterPairPostbytes := by
  constructor
  case right => exact fun s p q => ⟨rfl, rfl, rfl, rfl⟩
  case left =>
    intro pb rest table
    have htfr : Page.page1.lookup 0x1F = some (.regPair .tfr) := rfl
    have hexg : Page.page1.lookup 0x1E = some (.regPair .exg) := rfl
    have hhi : table (pb.toNat / 16) = regOfCode (pb.extractLsb' 4 4) := by
      rw [regOfCode_eq_codeTable, highNibble_toNat]; rfl
    have hlo : table (pb.toNat % 16) = regOfCode (pb.extractLsb' 0 4) := by
      rw [regOfCode_eq_codeTable, lowNibble_toNat]; rfl
    rw [hhi, hlo]
    split
    case h_1 r1 r2 h1 h2 =>
      split
      case isTrue hw =>
        have hpair := pairOfByte_iff_codes.2 ⟨hw, h1, h2⟩
        exact ⟨decode_of_pair htfr rest hpair, decode_of_pair hexg rest hpair⟩
      case isFalse hw =>
        have hpair : pairOfByte pb = none := pairOfByte_eq_none fun q1 q2 hq1 hq2 => by
          obtain rfl := Option.some.inj (h1.symm.trans hq1)
          obtain rfl := Option.some.inj (h2.symm.trans hq2)
          exact hw
        exact ⟨decode_of_no_pair htfr rest hpair, decode_of_no_pair hexg rest hpair⟩
    case h_2 hnone =>
      have hpair : pairOfByte pb = none := pairOfByte_eq_none fun q1 q2 hq1 hq2 _ => hnone q1 q2 hq1 hq2
      exact ⟨decode_of_no_pair htfr rest hpair, decode_of_no_pair hexg rest hpair⟩

/-! ### Words and second names -/

/-- Settles O3: the decoder evaluated on each word. -/
theorem writtenOutWordsDecode : Obligations.WrittenOutWordsDecode :=
  ⟨rfl, rfl, rfl, rfl, rfl, rfl, rfl, rfl, rfl⟩

/-- A second name has the bytes of its first name; any other instruction is its own first name (R91). -/
theorem encode_canonical (i : Instr) : encode i.canonical = encode i := by
  cases i <;> rfl

theorem exec_canonical (i : Instr) (s : State) : exec i.canonical s = exec i s := by
  cases i <;> rfl

theorem cycles_canonical (i : Instr) (s : State) : cycles i.canonical s = cycles i s := by
  cases i <;> rfl

/-- Settles O7: bytes, effect and cycles are those of the first name. -/
theorem secondNamesAreTheSameInstruction : Obligations.SecondNamesAreTheSameInstruction :=
  fun i s => ⟨(encode_canonical i).symm, (exec_canonical i s).symm, (cycles_canonical i s).symm⟩

end Sys2Proof
end

section
/-! PROOFS. Effective addresses (spec/30_encoding.md R65 to R79). -/

namespace Sys2Proof.Machine

/-- A sum modulo 2^16 with a signed offset of up to 16 bits (R69 to R74, R77). -/
theorem add_signExtend_eq_ofInt {w : Nat} (hw : w ≤ 16) (b : Word) (o : BitVec w) :
    b + o.signExtend 16 = BitVec.ofInt 16 (b.toNat + o.toInt) := by
  apply BitVec.eq_of_toInt_eq
  rw [BitVec.toInt_add, BitVec.toInt_signExtend_of_le hw, BitVec.toInt_ofInt, BitVec.toInt_eq_toNat_bmod b,
    Int.bmod_add_bmod]

theorem add_word_eq_ofInt (b o : Word) : b + o = BitVec.ofInt 16 (b.toNat + o.toInt) := by
  have h := add_signExtend_eq_ofInt (Nat.le_refl 16) b o
  rwa [BitVec.signExtend_eq] at h

theorem add_d_eq_ofNat (b : Word) (s : State) : b + s.d = BitVec.ofNat 16 (b.toNat + 256 * s.a.toNat + s.b.toNat) := by
  apply BitVec.eq_of_toNat_eq
  rw [State.d, BitVec.toNat_add, join_toNat, BitVec.toNat_ofNat, Nat.mul_comm 256, Nat.add_assoc]

/-- A form that is not indirect addresses its base. -/
theorem effectiveAddress_of_not_indirect {m : Indexed} {s : State} (h : indirect m = false) :
    effectiveAddress (.indexed m) s = .ok (indexedBase m s) :=
  indexedEA_ok.2 ⟨rfl, by rw [h]; rfl⟩

/-- Settles O17: each form is its base plus its offset, extended by sign. -/
theorem offsetAddresses : Obligations.OffsetAddresses := by
  intro s r
  have add8 (b : Word) (o : Byte) : b + sext8 o = BitVec.ofInt 16 (b.toNat + o.toInt) :=
    add_signExtend_eq_ofInt (by decide) b o
  refine ⟨fun a => ?direct, fun a => rfl, fun o => ?offset5, effectiveAddress_of_not_indirect rfl, fun o => ?offset8,
    fun o => ?offset16, ?accA, ?accB, ?accD, fun o => ?pcr8, fun o => ?pcr16⟩
  case direct => rw [← join_eq_ofNat]; rfl
  all_goals rw [effectiveAddress_of_not_indirect rfl, indexedBase]
  case offset5 => rw [sext5, add_signExtend_eq_ofInt (by decide)]
  case offset8 => rw [add8]
  case offset16 => rw [add_word_eq_ofInt]
  case accA => rw [add8]
  case accB => rw [add8]
  case accD => rw [add_d_eq_ofNat]
  case pcr8 => rw [add8]
  case pcr16 => rw [add_word_eq_ofInt]

theorem indexMoved_setIndex (r : IndexReg) (d : Word) (s : State) : IndexMoved r d s (s.setIndex r (s.index r + d)) := by
  refine ⟨?_, fun q hq => ?_, ?_⟩
  · rw [State.index_setIndex, if_pos rfl]
  · rw [State.index_setIndex, if_neg hq]
  · cases r <;> rfl

/-- Settles O18: the old base is the address after a post-increment, the new one after a pre-decrement. -/
theorem autoIncrementAndDecrement : Obligations.AutoIncrementAndDecrement := by
  intro s r
  have sub (d : Word) : s.index r - d = s.index r + -d := BitVec.sub_eq_add_neg _ _
  refine ⟨⟨_, effectiveAddress_of_not_indirect rfl, indexMoved_setIndex r 1 s⟩,
    ⟨_, effectiveAddress_of_not_indirect rfl, indexMoved_setIndex r 2 s⟩,
    ⟨_, effectiveAddress_of_not_indirect rfl, ?_⟩, ⟨_, effectiveAddress_of_not_indirect rfl, ?_⟩⟩
  · rw [sub]; exact indexMoved_setIndex r (-1) s
  · rw [sub]; exact indexMoved_setIndex r (-2) s

/-- `f true` is the indirect variant of the form `f false`: the same base and the same register update (R79). -/
structure IndirectVariant (f : Bool → Indexed) : Prop where
  direct : indirect (f false) = false
  indirect : indirect (f true) = true
  base : indexedBase (f true) = indexedBase (f false)

/-- The indirect variant reads its pointer at the direct form's address, after the register update (R79). -/
theorem IndirectVariant.effectiveAddress_eq {f : Bool → Indexed} (hf : IndirectVariant f) {s u : State} {a p : Word}
    (ha : effectiveAddress (.indexed (f false)) s = .ok (a, u)) (hp : readWord u a = .ok p) :
    effectiveAddress (.indexed (f true)) s = .ok (p, u) := by
  have hbase : indexedBase (f false) s = (a, u) :=
    Except.ok.inj ((effectiveAddress_of_not_indirect hf.direct).symm.trans ha)
  refine indexedEA_ok.2 ⟨by rw [hf.base, hbase], ?_⟩
  rwa [hf.indirect, if_pos rfl, hf.base, hbase]

/-- Settles O19: the ten forms with an indirect variant, and extended indirect, each by the word at its pointer. -/
theorem indirectAddresses : Obligations.IndirectAddresses := by
  intro s u a h l r o w hh hl
  rw [← join_eq_ofNat]
  have hword := readWord_of_bytes hh hl
  constructor
  case left =>
    have hvariant : ∀ f ∈ [Indexed.postInc2 r, .preDec2 r, .noOffset r, .accA r, .accB r, .accD r, .offset8 r o,
        .offset16 r w, .pcr8 r o, .pcr16 r w], IndirectVariant f := by
      simp only [List.forall_mem_cons, List.not_mem_nil, false_implies, implies_true, and_true]
      and_intros
      all_goals exact ⟨rfl, rfl, rfl⟩
    exact fun f hf ha => (hvariant f hf).effectiveAddress_eq ha hword
  case right => exact (indexedEA_ok (m := .extIndirect a)).2 ⟨rfl, hword⟩

end Sys2Proof.Machine
end

section
/-! PROOFS. A pull of a register list takes back what a push of it saved (spec/30_encoding.md R84). -/

namespace Sys2Proof.Machine

/-- The bytes of memory from `a` up, modulo 2^16 (R44). -/
def bytesUpFrom (p : State) (a : Word) (k : Nat) : Res Byte := readByte p (a + BitVec.ofNat 16 k)

theorem add_ofNat_add (a : Word) (m n : Nat) :
    a + BitVec.ofNat 16 m + BitVec.ofNat 16 n = a + BitVec.ofNat 16 (m + n) := by
  rw [BitVec.add_assoc, BitVec.ofNat_add]

/-- Bytes stored in ram are the bytes of memory from there up. -/
theorem Stored.fetches {a : Word} {bs : List Byte} {s t : State} (h : Stored a bs s t)
    (hram : ∀ k < bs.length, s.region (a + BitVec.ofNat 16 k) = .ram) : Fetches (bytesUpFrom t a) 0 bs := by
  refine fetches_of_getElem fun k b hb => ?_
  rw [Nat.zero_add]
  exact h.1 k b hb (hram k (List.getElem?_eq_some_iff.1 hb).1)

section
variable {named : Bool} {r : StackReg} {p q : State} {a : Word} {k : Nat}

/-- A byte pulled into the register that holds it already moves the pointer alone. -/
theorem pullByteIf_of_fetches {set : State → Byte → State} {v : Byte}
    (hset : named = true → ∀ w, set (p.setSp r w) v = p.setSp r w)
    (h : Fetches (bytesUpFrom p a) k (if named then [v] else [])) :
    Bus.plain.pullByteIf named r set (p.setSp r (a + BitVec.ofNat 16 k)) =
      .ok (p.setSp r (a + BitVec.ofNat 16 (k + (if named then [v] else []).length))) := by
  cases named with
  | false => rfl
  | true =>
    have hread : readByte (p.setSp r (a + BitVec.ofNat 16 k)) ((p.setSp r (a + BitVec.ofNat 16 k)).sp r) = .ok v := by
      rw [State.sp_setSp, if_pos rfl, readByte_setSp]
      exact h.1
    refine pullByteIf_ok.2 ⟨v, _, pull8_ok.2 ⟨hread, rfl⟩, ?_⟩
    rw [setSp_setSp, hset rfl]
    simp only [State.sp_setSp, if_true]
    exact congrArg (p.setSp r) (add_ofNat_add a k 1).symm

/-- A word pulled leaves what the load of its value leaves, with the pointer moved. -/
theorem pullWordIf_of_fetches {set : State → Word → State} {v : Word}
    (hset : named = true → ∀ w, set (p.setSp r w) v = q.setSp r w) (hq : named = false → q = p)
    (h : Fetches (bytesUpFrom p a) k (if named then wordBytes v else [])) :
    Bus.plain.pullWordIf named r set (p.setSp r (a + BitVec.ofNat 16 k)) =
      .ok (q.setSp r (a + BitVec.ofNat 16 (k + (if named then wordBytes v else []).length))) := by
  cases named with
  | false => rw [hq rfl]; rfl
  | true =>
    obtain ⟨hhi, hlo, _⟩ := h
    have hread : readWord (p.setSp r (a + BitVec.ofNat 16 k)) ((p.setSp r (a + BitVec.ofNat 16 k)).sp r) = .ok v := by
      rw [State.sp_setSp, if_pos rfl, readWord_ok, readByte_setSp, readByte_setSp]
      exact ⟨hhi, (congrArg (readByte p) (add_ofNat_add a k 1)).trans hlo⟩
    refine pullWordIf_ok.2 ⟨v, _, pull16_ok.2 ⟨hread, rfl⟩, ?_⟩
    rw [setSp_setSp, hset rfl]
    simp only [State.sp_setSp, if_true]
    exact congrArg (q.setSp r) (add_ofNat_add a k 2).symm

end

/-- `p` after a pull of the list `l`: PULU of S arms NMI (R309). -/
def armedByPull (r : StackReg) (l : RegList) (p : State) : State :=
  { p with nmiArmed := p.nmiArmed || (l.other && decide (r = .u)) }

/-- A pull of a list whose registers hold the frame's values already moves the pointer, and arms NMI if it loads S. -/
theorem pullList_of_fetches {r : StackReg} {l : RegList} {p : State} {a : Word}
    (h : Fetches (bytesUpFrom p a) 0 (frameBytes r l p)) :
    Bus.plain.pullList r l (p.setSp r a) =
      .ok ((armedByPull r l p).setSp r (a + BitVec.ofNat 16 (frameBytes r l p).length)) := by
  simp only [frameBytes, List.append_assoc, fetches_append] at h
  obtain ⟨hcc, ha, hb, hdp, hx, hy, hother, hpc⟩ := h
  have hstart : p.setSp r a = p.setSp r (a + BitVec.ofNat 16 0) := congrArg (p.setSp r) (BitVec.add_zero a).symm
  have hlast := pullWordIf_of_fetches (r := r) (set := fun s v => { s with pc := v })
    (p := armedByPull r l p) (q := armedByPull r l p) (fun _ _ => by cases r <;> rfl) (fun _ => rfl) hpc
  rw [hstart]
  simp only [Bus.pullList, Res.bind_ok]
  refine ⟨_, pullByteIf_of_fetches (fun _ _ => by cases r <;> rfl) hcc,
    _, pullByteIf_of_fetches (fun _ _ => by cases r <;> rfl) ha,
    _, pullByteIf_of_fetches (fun _ _ => by cases r <;> rfl) hb,
    _, pullByteIf_of_fetches (fun _ _ => by cases r <;> rfl) hdp,
    _, pullWordIf_of_fetches (q := p) (fun _ _ => by cases r <;> rfl) (fun _ => rfl) hx,
    _, pullWordIf_of_fetches (q := p) (fun _ _ => by cases r <;> rfl) (fun _ => rfl) hy,
    _, pullWordIf_of_fetches (q := armedByPull r l p) (fun hn w => ?_) (fun hn => ?_) hother, ?_⟩
  · cases r <;> simp [armedByPull, hn, State.loadOtherSp, State.load16, State.setSp, State.otherSp]
  · simp [armedByPull, hn]
  · rw [hlast]
    simp only [frameBytes, List.length_append, Nat.add_assoc, Nat.zero_add]

theorem frameBytes_length_le (r : StackReg) (l : RegList) (s : State) : (frameBytes r l s).length ≤ 12 := by
  have hpc := length_ite_word l.pc s.pc
  have hother := length_ite_word l.other (s.otherSp r)
  have hy := length_ite_word l.y s.y
  have hx := length_ite_word l.x s.x
  have hdp := length_ite_byte l.dp s.dp
  have hb := length_ite_byte l.b s.b
  have ha := length_ite_byte l.a s.a
  have hcc := length_ite_byte l.cc s.cc
  simp only [frameBytes, List.length_append]
  omega

/-- The address `k` above a pointer that is `n` lower lies `n - k` below where the pointer was. -/
theorem sub_ofNat_add_ofNat (a : Word) {k n : Nat} (h : k < n) :
    a - BitVec.ofNat 16 n + BitVec.ofNat 16 k = a - BitVec.ofNat 16 (n - k - 1 + 1) := by
  bv_omega

/-- A push of a list into ram and the pull of the same list leave every register as it was. -/
theorem pushList_pullList {r : StackReg} (l : RegList) {s : State}
    (hram : ∀ k : Nat, k < 12 → s.region (s.sp r - BitVec.ofNat 16 (k + 1)) = .ram) :
    ∃ t, Bus.plain.pushList r l s = .ok t ∧
      Bus.plain.pullList r l t = .ok (armedByPull r l { s with mem := t.mem }) := by
  obtain ⟨t, ht⟩ := pushList_room l fun k hk => .inl (hram k hk)
  have hp := pushList_pushed ht
  have hlen := frameBytes_length_le r l s
  have hfetch := hp.stored.fetches fun k hk => by
    rw [sub_ofNat_add_ofNat _ hk]
    exact hram _ (by omega)
  have hframe : frameBytes r l { s with mem := t.mem } = frameBytes r l s := by cases r <;> rfl
  have hstate : t = State.setSp { s with mem := t.mem } r (s.sp r - BitVec.ofNat 16 (frameBytes r l s).length) := by
    refine hp.state.trans ?_
    cases r <;> rfl
  have hmem (a : Word) : bytesUpFrom { s with mem := t.mem } a = bytesUpFrom t a :=
    funext fun k => readByte_congr hp.platform.symm rfl
  have hpull := pullList_of_fetches (r := r) (l := l) (p := { s with mem := t.mem })
    (a := s.sp r - BitVec.ofNat 16 (frameBytes r l s).length)
  rw [← hstate, hframe, BitVec.sub_add_cancel, hmem] at hpull
  refine ⟨t, ht, (hpull hfetch).trans (congrArg _ ?_)⟩
  cases r <;> rfl

/-- Settles O46: the frame that the push has left in ram is the one that the pull reads. -/
theorem pullRestoresPush : Obligations.PullRestoresPush := by
  intro l s
  constructor
  case left =>
    intro hram
    obtain ⟨t, hpush, hpull⟩ := pushList_pullList (r := .s) l hram
    refine ⟨t, finish_next.2 hpush, finish_next.2 (hpull.trans ?_)⟩
    simp [armedByPull]
  case right =>
    intro hram
    obtain ⟨t, hpush, hpull⟩ := pushList_pullList (r := .u) l hram
    refine ⟨t, finish_next.2 hpush, finish_next.2 (hpull.trans ?_)⟩
    simp [armedByPull]

end Sys2Proof.Machine
end

section
/-! PROOFS. The flag computations in whole numbers (spec/00_scope.md R7 to R12): the result and the flags of each sum,
difference, logic operation, shift and of DAA are those that the terms of the statements name. -/

namespace Sys2Proof.Machine

/-! ### The cells of a row -/

section
variable (cc : Byte) (h n z v c : Bool)

/-- A row with the cells of a sum or a difference: H, N, Z, V, C. -/
theorem CC.cells_putHNZVC :
    CC.Cells cc (CC.putNZVC (CC.put cc .h h) n z v c) (some h) (some n) (some z) (some v) (some c) := by
  simp [CC.Cells]

theorem CC.cells_putNZVC : CC.Cells cc (CC.putNZVC cc n z v c) none (some n) (some z) (some v) (some c) := by
  simp [CC.Cells]

theorem CC.cells_putNZV : CC.Cells cc (CC.putNZV cc n z v) none (some n) (some z) (some v) none := by
  simp [CC.Cells]

theorem CC.cells_putHNZC : CC.Cells cc (CC.putNZC (CC.put cc .h h) n z c) (some h) (some n) (some z) none (some c) := by
  simp [CC.Cells]

theorem CC.cells_putNZC : CC.Cells cc (CC.putNZC cc n z c) none (some n) (some z) none (some c) := by
  simp [CC.Cells]

end

/-! ### Sign and zero -/

theorem nz8_fst (r : Byte) : (nz8 r).1 = decide (r.toInt < 0) := r.msb_eq_toInt

theorem nz8_snd (r : Byte) : (nz8 r).2 = decide (r = 0) := beq_eq_decide r 0

theorem nz16_fst (r : Word) : (nz16 r).1 = decide (r.toInt < 0) := r.msb_eq_toInt

theorem nz16_snd (r : Word) : (nz16 r).2 = decide (r = 0) := beq_eq_decide r 0

/-! ### Signed overflow -/

/-- The sign of a whole number narrowed to `w` bits is its own sign, unless no signed `w`-bit value holds it. -/
theorem msb_ofInt {w : Nat} {i : Int} (hw : 0 < w) (hlo : -2 ^ w ≤ i) (hhi : i < 2 ^ w) :
    (BitVec.ofInt w i).msb = (decide (i < 0) ^^ decide (2 * i < -2 ^ w ∨ 2 ^ w ≤ 2 * i)) := by
  have hpow : (2 : Int) ^ w = 2 * 2 ^ (w - 1) := by rw [← pow_succ', Nat.sub_add_cancel hw]
  have hbmod (k : Int) (h : -2 ^ (w - 1) ≤ i + 2 ^ w * k) (h' : i + 2 ^ w * k < 2 ^ (w - 1)) :
      i.bmod (2 ^ w) = i + 2 ^ w * k :=
    (Int.bmod_eq_iff (by positivity)).2 (by push_cast; exact ⟨by omega, by omega, k, by ring⟩)
  rw [BitVec.msb_eq_toInt, BitVec.toInt_ofInt]
  rcases lt_or_ge i (-2 ^ (w - 1)) with hlt | hge
  · rw [hbmod 1 (by omega) (by omega)]
    grind
  · rcases lt_or_ge i (2 ^ (w - 1)) with hlt | hge'
    · rw [hbmod 0 (by omega) (by omega)]
      grind
    · rw [hbmod (-1) (by omega) (by omega)]
      grind

/-- Operands of one sign whose sum has the other: the test for signed overflow of a sum with a carry in (R8, R10). -/
theorem overflow_add {w : Nat} (hw : 0 < w) (x m : BitVec w) {c : Int} (hc : 0 ≤ c) (hc' : c ≤ 1) :
    (x.msb == m.msb && (BitVec.ofInt w (x.toInt + m.toInt + c)).msb != x.msb) =
      decide (2 * (x.toInt + m.toInt + c) < -2 ^ w ∨ 2 ^ w ≤ 2 * (x.toInt + m.toInt + c)) := by
  have hxlo := x.le_two_mul_toInt
  have hxhi := x.two_mul_toInt_lt
  have hmlo := m.le_two_mul_toInt
  have hmhi := m.two_mul_toInt_lt
  have hpow : (2 : Int) ^ w = 2 * 2 ^ (w - 1) := by rw [← pow_succ', Nat.sub_add_cancel hw]
  rw [msb_ofInt hw (by omega) (by omega), BitVec.msb_eq_toInt, BitVec.msb_eq_toInt]
  grind

/-- Operands of two signs whose difference has not that of the first: the test for signed overflow of a difference with
a borrow in (R9, R11). -/
theorem overflow_sub {w : Nat} (hw : 0 < w) (x m : BitVec w) {c : Int} (hc : 0 ≤ c) (hc' : c ≤ 1) :
    (x.msb != m.msb && (BitVec.ofInt w (x.toInt - m.toInt - c)).msb != x.msb) =
      decide (2 * (x.toInt - m.toInt - c) < -2 ^ w ∨ 2 ^ w ≤ 2 * (x.toInt - m.toInt - c)) := by
  have hxlo := x.le_two_mul_toInt
  have hxhi := x.two_mul_toInt_lt
  have hmlo := m.le_two_mul_toInt
  have hmhi := m.two_mul_toInt_lt
  have hpow : (2 : Int) ^ w = 2 * 2 ^ (w - 1) := by rw [← pow_succ', Nat.sub_add_cancel hw]
  rw [msb_ofInt hw (by omega) (by omega), BitVec.msb_eq_toInt, BitVec.msb_eq_toInt]
  grind

/-! ### Sums and differences -/

/-- The sum of the unsigned values and that of the signed values narrow to the same bits. -/
theorem ofNat_add_eq_ofInt {w : Nat} (x m : BitVec w) (c : Nat) :
    BitVec.ofNat w (x.toNat + m.toNat + c) = BitVec.ofInt w (x.toInt + m.toInt + c) := by
  simp [BitVec.ofNat_add, BitVec.ofInt_add]

theorem ofInt_sub_eq_ofInt {w : Nat} (x m : BitVec w) (c : Int) :
    BitVec.ofInt w (x.toNat - m.toNat - c) = BitVec.ofInt w (x.toInt - m.toInt - c) := by
  simp [sub_eq_add_neg, BitVec.ofInt_add, BitVec.ofInt_neg]

theorem overflows8_eq (i : Int) : overflows8 i = decide (2 * i < -2 ^ 8 ∨ 2 ^ 8 ≤ 2 * i) :=
  decide_eq_decide.2 (by omega)

theorem overflows16_eq (i : Int) : overflows16 i = decide (2 * i < -2 ^ 16 ∨ 2 ^ 16 ≤ 2 * i) :=
  decide_eq_decide.2 (by omega)

/-- ADD and ADC compute the sum and its flags (R8). -/
theorem add8_sumOf (x m cc : Byte) (c : Bool) : SumOf x m c (add8 x m c).value cc (CC.ofSum8 cc (add8 x m c)) := by
  have hc := c.toNat_le
  have hv : (add8 x m c).v = overflows8 (x.toInt + m.toInt + c.toNat) := by
    simp only [add8]
    rw [ofNat_add_eq_ofInt, overflow_add (by decide) x m (by omega) (by omega), overflows8_eq]
  refine ⟨BitVec.toNat_ofNat _ _, ?_⟩
  rw [← hv, ← nz8_fst, ← nz8_snd]
  exact CC.cells_putHNZVC _ _ _ _ _ _

/-- SUB, SBC and CMP compute the difference and its flags, with the half carry they are given (R9, R13). -/
theorem sub8_differenceOf (x m cc : Byte) (b h : Bool) :
    DifferenceOf x m b h (sub8 x m b).value cc (CC.ofAlu8 cc h (sub8 x m b)) := by
  have hb := b.toNat_le
  have hv : (sub8 x m b).v = overflows8 (x.toInt - m.toInt - b.toNat) := by
    simp only [sub8]
    rw [ofInt_sub_eq_ofInt, overflow_sub (by decide) x m (by omega) (by omega), overflows8_eq]
  have hc : (sub8 x m b).c = decide (x.toNat < m.toNat + b.toNat) := decide_eq_decide.2 (by omega)
  refine ⟨?_, ?_⟩
  · rw [sub8, BitVec.toNat_ofInt, Int.toNat_of_nonneg (Int.emod_nonneg _ (by decide))]
    rfl
  · rw [← hv, ← hc, ← nz8_fst, ← nz8_snd]
    exact CC.cells_putHNZVC _ _ _ _ _ _

/-- ADDD computes the 16-bit sum and its flags (R10). -/
theorem add16_sumOf16 (x m : Word) (cc : Byte) : SumOf16 x m (add16 x m).value cc (CC.ofAlu16 cc (add16 x m)) := by
  have hv : (add16 x m).v = overflows16 (x.toInt + m.toInt) := by
    have h := overflow_add (by decide) x m (le_refl 0) (by decide)
    rw [← Nat.cast_zero, ← ofNat_add_eq_ofInt, ← overflows16_eq] at h
    simpa only [add16, Nat.add_zero, Nat.cast_zero, Int.add_zero] using h
  refine ⟨BitVec.toNat_ofNat _ _, ?_⟩
  rw [← hv, ← nz16_fst, ← nz16_snd]
  exact CC.cells_putNZVC _ _ _ _ _

/-- SUBD and the 16-bit compares compute the 16-bit difference and its flags (R11). -/
theorem sub16_differenceOf16 (x m : Word) (cc : Byte) :
    DifferenceOf16 x m (sub16 x m).value cc (CC.ofAlu16 cc (sub16 x m)) := by
  have hv : (sub16 x m).v = overflows16 (x.toInt - m.toInt) := by
    have h := overflow_sub (by decide) x m (le_refl 0) (by decide)
    rw [← ofInt_sub_eq_ofInt, ← overflows16_eq] at h
    simpa only [sub16, Int.sub_zero] using h
  have hc : (sub16 x m).c = decide (x.toNat < m.toNat) := decide_eq_decide.2 (by omega)
  refine ⟨?_, ?_⟩
  · rw [sub16, BitVec.toNat_ofInt, Int.toNat_of_nonneg (Int.emod_nonneg _ (by decide))]
    rfl
  · rw [← hv, ← hc, ← nz16_fst, ← nz16_snd]
    exact CC.cells_putNZVC _ _ _ _ _

/-- `logic8` leaves N and Z of the byte, and V clear (R12). -/
theorem logic8_testedByte (cc r : Byte) : TestedByte r cc (CC.logic8 cc r) := by
  rw [TestedByte, ← nz8_fst, ← nz8_snd]
  exact CC.cells_putNZV _ _ _ _

/-! ### Single-operand operations -/

theorem getLsbD_eq_decide (v : Byte) (k : Nat) : v.getLsbD k = decide (v.toNat / 2 ^ k % 2 = 1) := by
  rw [← BitVec.testBit_toNat, Nat.testBit_eq_decide_div_mod_eq]

theorem bit0_eq (v : Byte) : v.getLsbD 0 = decide (v.toNat % 2 = 1) := by
  rw [getLsbD_eq_decide, pow_zero, Nat.div_one]

theorem bit7_eq (v : Byte) : v.getLsbD 7 = decide (128 ≤ v.toNat) := by
  rw [getLsbD_eq_decide]
  exact decide_eq_decide.2 (by omega)

/-- Doubling overflows exactly when bits 7 and 6 differ: the V of ASL and ROL. -/
theorem bit7_xor_bit6_eq (v : Byte) : (v.getLsbD 7 ^^ v.getLsbD 6) = overflows8 (2 * v.toInt) := by
  have hv := v.isLt
  rw [getLsbD_eq_decide, getLsbD_eq_decide, overflows8, BitVec.toInt_eq_toNat_cond]
  grind

theorem shiftLeft_one_toNat (v : Byte) : (v <<< 1).toNat = 2 * v.toNat % 256 := by
  rw [BitVec.toNat_shiftLeft, Nat.shiftLeft_eq, Nat.mul_comm]

theorem ushiftRight_one_toNat (v : Byte) : (v >>> 1).toNat = v.toNat / 2 := by
  rw [BitVec.toNat_ushiftRight, Nat.shiftRight_eq_div_pow, pow_one]

theorem carry_toNat (c : Bool) : ((BitVec.ofBool c).setWidth 8).toNat = c.toNat := by
  cases c <;> rfl

/-- A carry that enters at bit 0 (R202 to R204). -/
theorem shiftLeft_one_or_carry_toNat (v : Byte) (c : Bool) :
    ((v <<< 1) ||| (BitVec.ofBool c).setWidth 8).toNat = (2 * v.toNat + c.toNat) % 256 := by
  have hc := c.toNat_le
  have hshift : 2 * v.toNat % 256 = (v.toNat % 128) <<< 1 := by rw [Nat.shiftLeft_eq]; omega
  rw [BitVec.toNat_or, shiftLeft_one_toNat, carry_toNat, hshift, ← Nat.shiftLeft_add_eq_or_of_lt (by omega),
    Nat.shiftLeft_eq]
  omega

/-- A carry that enters at bit 7 (R205 to R207). -/
theorem ushiftRight_one_or_carry_toNat (v : Byte) (c : Bool) :
    ((v >>> 1) ||| ((BitVec.ofBool c).setWidth 8 <<< 7)).toNat = v.toNat / 2 + 128 * c.toNat := by
  have hc := c.toNat_le
  have hv := v.isLt
  have hcarry : ((BitVec.ofBool c).setWidth 8 <<< 7).toNat = c.toNat <<< 7 := by cases c <;> rfl
  rw [BitVec.toNat_or, ushiftRight_one_toNat, hcarry, Nat.lor_comm, ← Nat.shiftLeft_add_eq_or_of_lt (by omega),
    Nat.shiftLeft_eq]
  omega

/-- Keeping bit 7 is a rotate that takes the sign in: half the signed value, rounded down (R112 to R114). -/
theorem ushiftRight_one_or_sign_toInt (v : Byte) : ((v >>> 1) ||| (v &&& 0x80)).toInt = v.toInt / 2 := by
  have hv := v.isLt
  have hsign : (v &&& 0x80 : Byte) = (BitVec.ofBool (v.getLsbD 7)).setWidth 8 <<< 7 := by
    rw [show (0x80 : Byte) = BitVec.twoPow 8 7 from rfl, BitVec.and_twoPow]
    cases v.getLsbD 7 <;> rfl
  rw [hsign, BitVec.toInt_eq_toNat_cond, ushiftRight_one_or_carry_toNat, bit7_eq, BitVec.toInt_eq_toNat_cond]
  rcases lt_or_ge v.toNat 128 with hpos | hneg
  · rw [decide_eq_false (by omega), Bool.toNat_false]
    omega
  · rw [decide_eq_true hneg, Bool.toNat_true]
    omega

/-- ASL and LSL (R109 to R111, R171 to R173). -/
theorem asl8_gives (h : Bool) (v cc : Byte) : Unary.asl.Gives v h (asl8 h v cc).1 cc (asl8 h v cc).2 := by
  refine ⟨shiftLeft_one_toNat v, ?_⟩
  rw [← nz8_fst, ← nz8_snd, ← bit7_xor_bit6_eq, ← bit7_eq]
  exact CC.cells_putHNZVC _ _ _ _ _ _

/-- ASR (R112 to R114). -/
theorem asr8_gives (h : Bool) (v cc : Byte) : Unary.asr.Gives v h (asr8 h v cc).1 cc (asr8 h v cc).2 := by
  have hhalf : (asr8 h v cc).1.toInt = v.toInt / 2 := ushiftRight_one_or_sign_toInt v
  have hsign : decide (v.toInt < 0) = decide ((asr8 h v cc).1.toInt < 0) := decide_eq_decide.2 (by omega)
  refine ⟨hhalf, ?_⟩
  rw [hsign, ← nz8_fst, ← nz8_snd, ← bit0_eq]
  exact CC.cells_putHNZC _ _ _ _ _

/-- LSR (R174 to R176). -/
theorem lsr8_gives (h : Bool) (v cc : Byte) : Unary.lsr.Gives v h (lsr8 v cc).1 cc (lsr8 v cc).2 := by
  refine ⟨ushiftRight_one_toNat v, ?_⟩
  rw [← nz8_snd, ← bit0_eq]
  exact CC.cells_putNZC _ _ _ _

/-- ROL (R202 to R204). -/
theorem rol8_gives (h : Bool) (v cc : Byte) : Unary.rol.Gives v h (rol8 v cc).1 cc (rol8 v cc).2 := by
  refine ⟨shiftLeft_one_or_carry_toNat v _, ?_⟩
  rw [← nz8_fst, ← nz8_snd, ← bit7_xor_bit6_eq, ← bit7_eq]
  exact CC.cells_putNZVC _ _ _ _ _

/-- ROR: the old carry is the sign of the result (R205 to R207; D28, log 15). -/
theorem ror8_gives (h : Bool) (v cc : Byte) : Unary.ror.Gives v h (ror8 v cc).1 cc (ror8 v cc).2 := by
  have hvalue : (ror8 v cc).1.toNat = v.toNat / 2 + 128 * (CC.get cc .c).toNat := ushiftRight_one_or_carry_toNat v _
  have hsign : CC.get cc .c = (nz8 (ror8 v cc).1).1 := by
    have hv := v.isLt
    rw [nz8, BitVec.msb_eq_decide, hvalue]
    cases CC.get cc .c
    case false => rw [Bool.toNat_false, decide_eq_false (by omega)]
    case true => rw [Bool.toNat_true, decide_eq_true (by omega)]
  refine ⟨hvalue, ?_⟩
  rw [hsign, ← nz8_snd, ← bit0_eq]
  exact CC.cells_putNZC _ _ _ _

/-- COM (R127 to R129). -/
theorem com8_gives (h : Bool) (v cc : Byte) : Unary.com.Gives v h (com8 v cc).1 cc (com8 v cc).2 := by
  refine ⟨?_, ?_⟩
  · exact BitVec.toNat_not
  · rw [← nz8_fst, ← nz8_snd]
    exact CC.cells_putNZVC _ _ _ _ _

/-- CLR (R117 to R119). -/
theorem clear_gives (h : Bool) (v cc : Byte) : Unary.clr.Gives v h 0 cc (CC.clear cc) :=
  ⟨rfl, CC.cells_putNZVC _ _ _ _ _⟩

/-! ### Decimal adjust -/

/-- The two digits of DAA's correction factor (R131). -/
theorem correction_toNat (p q : Prop) [Decidable p] [Decidable q] :
    ((if p then 0x06 else 0x00 : Byte) ||| (if q then 0x60 else 0x00)).toNat =
      (if p then 6 else 0) + (if q then 96 else 0) := by
  split <;> split <;> rfl

/-- The value of A that DAA narrows to a byte: A with its correction added (R131). -/
def decimalSum (a cc : Byte) : Nat :=
  a.toNat + (if CC.get cc .h = true ∨ 9 < a.toNat % 16 then 6 else 0) +
    (if CC.get cc .c = true ∨ 9 < a.toNat / 16 ∨ (8 < a.toNat / 16 ∧ 9 < a.toNat % 16) then 96 else 0)

theorem daa8_value (a cc : Byte) : (daa8 a cc).1.toNat = decimalSum a cc % 256 := by
  rw [daa8, BitVec.toNat_ofNat, correction_toNat, ← Nat.add_assoc]
  rfl

theorem daa8_cells (a cc : Byte) :
    CC.Cells cc (daa8 a cc).2 none (some (decide ((daa8 a cc).1.toInt < 0))) (some (decide ((daa8 a cc).1 = 0)))
      (some false) (some (CC.get cc .c || decide (256 ≤ decimalSum a cc))) := by
  rw [← nz8_fst, ← nz8_snd, decimalSum, Nat.add_assoc, ← correction_toNat]
  exact CC.cells_putNZVC _ _ _ _ _

end Sys2Proof.Machine
end

section
/-! PROOFS. The instructions of spec/40_abx_to_dec.md, with those of their kind from the files after it: each from the
law of its shared effect (Laws/Effects.lean) and its flag computation in whole numbers. -/

namespace Sys2Proof.Machine

/-! ### A register and an operand -/

/-- Settles O23: `addToAcc` on each accumulator, with the sum of R8; the carry in is the one from before the operand. -/
theorem addAndAddWithCarry : Obligations.AddAndAddWithCarry := by
  intro src s u m h
  have hadd (r : Acc) (c : Bool) := (addToAcc_ok (r := r) (cin := c)).2 ⟨m, u, h, rfl⟩
  exact ⟨⟨_, _, finish_next.2 (hadd .a _), add8_sumOf _ _ _ _⟩, ⟨_, _, finish_next.2 (hadd .b _), add8_sumOf _ _ _ _⟩,
    ⟨_, _, finish_next.2 (hadd .a _), add8_sumOf _ _ _ _⟩, ⟨_, _, finish_next.2 (hadd .b _), add8_sumOf _ _ _ _⟩⟩

/-- Settles O25: `compareAcc` on each accumulator, with the difference of R9 and the half carry drawn. -/
theorem compareAccumulator : Obligations.CompareAccumulator := by
  intro src s u m h
  have hcompare (r : Acc) := (compareAcc_ok (r := r)).2 ⟨m, u, h, rfl⟩
  exact ⟨⟨_, _, finish_next.2 (hcompare .a), sub8_differenceOf _ _ _ _ _⟩,
    ⟨_, _, finish_next.2 (hcompare .b), sub8_differenceOf _ _ _ _ _⟩⟩

/-- Settles O26: `arithD` with the sum of R10 and with the difference of R11; D is A and B side by side. -/
theorem addAndSubtractD : Obligations.AddAndSubtractD := by
  intro src s u m h
  have harith (op : Word → Word → Alu16) := (arithD_ok (op := op)).2 ⟨m, u, h, rfl⟩
  simp only [← join_eq_ofNat, ← hiByte_eq_ofNat, ← loByte_eq_ofNat]
  exact ⟨⟨_, _, finish_next.2 (harith add16), add16_sumOf16 _ _ _⟩,
    ⟨_, _, finish_next.2 (harith sub16), sub16_differenceOf16 _ _ _⟩⟩

/-- Settles O27: `compare16` on each register, with the difference of R11. -/
theorem compareWordRegister : Obligations.CompareWordRegister := by
  intro src s u m h
  have hcompare (r : Reg16) := (compare16_ok (r := r)).2 ⟨m, u, h, rfl⟩
  rw [← join_eq_ofNat]
  exact ⟨⟨_, _, finish_next.2 (hcompare .d), sub16_differenceOf16 _ _ _⟩,
    ⟨_, _, finish_next.2 (hcompare .s), sub16_differenceOf16 _ _ _⟩,
    ⟨_, _, finish_next.2 (hcompare .u), sub16_differenceOf16 _ _ _⟩,
    ⟨_, _, finish_next.2 (hcompare .x), sub16_differenceOf16 _ _ _⟩,
    ⟨_, _, finish_next.2 (hcompare .y), sub16_differenceOf16 _ _ _⟩⟩

/-- A row whose bytes and cycles are those of an 8-bit source on the first page (R64 to R68, R81). -/
theorem src8Row_of_page1 {f : Src8 → Instr} {imm dir idx ext : Byte} {ci cd cx ce : Nat}
    (hencode : ∀ src, encode (f src) = encodeSrc8 .page1 imm dir idx ext src)
    (hcycles : ∀ src s, cycles (f src) s = src8Cycles ci cd cx ce src) : Src8Row f imm dir idx ext ci cd cx ce :=
  ⟨fun v => ⟨hencode (.imm v), hcycles (.imm v)⟩, fun a => ⟨hencode (.mem (.direct a)), hcycles (.mem (.direct a))⟩,
    fun m => ⟨hencode (.mem (.indexed m)), hcycles (.mem (.indexed m))⟩,
    fun a => ⟨hencode (.mem (.extended a)), hcycles (.mem (.extended a))⟩⟩

/-- Settles O28: `logicToAcc` with each operation on each accumulator, and the table rows. -/
theorem logicIntoAccumulator : Obligations.LogicIntoAccumulator := by
  constructor
  case left =>
    refine ⟨?_, ?_, ?_, ?_, ?_, ?_⟩
    all_goals exact src8Row_of_page1 (fun _ => rfl) (fun _ _ => rfl)
  case right =>
    intro src s u m h
    have hlogic (r : Acc) (op : Byte → Byte → Byte) := (logicToAcc_ok (r := r) (op := op)).2 ⟨m, u, h, rfl⟩
    exact ⟨⟨_, _, finish_next.2 (hlogic .a _), logic8_testedByte _ _, fun _ _ => BitVec.getLsbD_and⟩,
      ⟨_, _, finish_next.2 (hlogic .b _), logic8_testedByte _ _, fun _ _ => BitVec.getLsbD_and⟩,
      ⟨_, _, finish_next.2 (hlogic .a _), logic8_testedByte _ _, fun _ _ => BitVec.getLsbD_or⟩,
      ⟨_, _, finish_next.2 (hlogic .b _), logic8_testedByte _ _, fun _ _ => BitVec.getLsbD_or⟩,
      ⟨_, _, finish_next.2 (hlogic .a _), logic8_testedByte _ _, fun _ _ => BitVec.getLsbD_xor⟩,
      ⟨_, _, finish_next.2 (hlogic .b _), logic8_testedByte _ _, fun _ _ => BitVec.getLsbD_xor⟩⟩

/-- Settles O29: BIT by `bitTestAcc`, TST outright and by `testMem`, all with the flags of `logic8`. -/
theorem bitAndTest : Obligations.BitAndTest := by
  refine ⟨fun src s u m h => ?bit, fun s => ?tstAcc, fun m s u a v ha hv => ?tst⟩
  case bit =>
    have hbit (r : Acc) := (bitTestAcc_ok (r := r)).2 ⟨m, u, h, rfl⟩
    exact ⟨⟨_, _, finish_next.2 (hbit .a), logic8_testedByte _ _, fun _ _ => BitVec.getLsbD_and⟩,
      ⟨_, _, finish_next.2 (hbit .b), logic8_testedByte _ _, fun _ _ => BitVec.getLsbD_and⟩⟩
  case tstAcc => exact ⟨⟨_, rfl, logic8_testedByte _ _⟩, ⟨_, rfl, logic8_testedByte _ _⟩⟩
  case tst => exact ⟨_, finish_next.2 (testMem_ok.2 ⟨a, u, v, ha, hv, rfl⟩), logic8_testedByte _ _⟩

/-! ### A read-modify-write of memory -/

/-- What is stored depends on the memory and the platform before and after alone. -/
theorem Stored.congr {a : Word} {bs : List Byte} {s s' t t' : State} (h : Stored a bs s t) (hs : s'.mem = s.mem)
    (hs' : s'.platform = s.platform) (ht : t'.mem = t.mem) (ht' : t'.platform = t.platform) : Stored a bs s' t' := by
  have hregion (b : Word) : s'.region b = s.region b := by rw [State.region, State.region, hs']
  have hbefore (b : Word) : readByte s' b = readByte s b := readByte_congr hs' (by rw [hs])
  have hafter (b : Word) : readByte t' b = readByte t b := readByte_congr ht' (by rw [ht])
  simpa only [Stored, hregion, hbefore, hafter] using h

/-- A read-modify-write completes where its byte reads, and stores the result there (R344 f). -/
theorem modifyMem_completes {m : MemOperand} {s u : State} {a : Word} {v : Byte} (op : Byte → Byte → Byte × Byte)
    (ha : effectiveAddress m s = .ok (a, u)) (hv : readByte u a = .ok v) :
    ∃ t, Bus.plain.modifyMem m op s = .ok t ∧ t = { u with cc := (op v u.cc).2, mem := t.mem } ∧
      Stored a [(op v u.cc).1] u t := by
  have husable : State.Usable { u with cc := (op v u.cc).2 } a := (readByte_ok.1 hv).1
  obtain ⟨t, ht⟩ := writeByte_usable (v := (op v u.cc).1) husable
  exact ⟨t, modifyMem_ok.2 ⟨a, u, v, ha, hv, ht⟩, (writeByte_frame ht).1, (writeByte_stored ht).congr rfl rfl rfl rfl⟩

/-- Drawing a half carry first changes nothing in how an address forms. -/
theorem effectiveAddress_draw {m : MemOperand} {s u : State} {a : Word} (h : effectiveAddress m s = .ok (a, u)) :
    effectiveAddress m s.draw.2 = .ok (a, u.draw.2) := by
  cases m with
  | direct d | extended d =>
    obtain ⟨rfl, rfl⟩ := Prod.mk.inj (Except.ok.inj h)
    rfl
  | indexed i =>
    have hbase : indexedBase i s.draw.2 = ((indexedBase i s).1, (indexedBase i s).2.draw.2) := by
      cases i with
      | postInc1 r | postInc2 r _ | preDec1 r | preDec2 r _ => cases r <;> rfl
      | offset5 | noOffset | accB | accA | offset8 | offset16 | accD | pcr8 | pcr16 | extIndirect => rfl
    obtain ⟨rfl, ha⟩ := indexedEA_ok.1 h
    exact indexedEA_ok.2 ⟨by rw [hbase], by rw [hbase]; exact ha⟩

/-- A read-modify-write that draws H completes where its byte reads. -/
theorem modifyMemDrawing_completes {m : MemOperand} {s u : State} {a : Word} {v : Byte}
    (op : Bool → Byte → Byte → Byte × Byte) (ha : effectiveAddress m s = .ok (a, u)) (hv : readByte u a = .ok v) :
    ∃ t, Bus.plain.modifyMemDrawing m op s = .ok t ∧
      t = { u with cc := (op (Config.freeHalfCarry u.draws) v u.cc).2, mem := t.mem, draws := u.draws + 1 } ∧
      Stored a [(op (Config.freeHalfCarry u.draws) v u.cc).1] u t := by
  have hdraws : u.draws = s.draws := by rw [effectiveAddress_frame ha]
  rw [hdraws, ← State.draw_fst]
  obtain ⟨t, ht, hstate, hstored⟩ := modifyMem_completes (op s.draw.1) (effectiveAddress_draw ha) hv
  refine ⟨t, ht, ?_, hstored.congr rfl rfl rfl rfl⟩
  rw [← hdraws]
  exact hstate

/-- Settles O33: each from the law of its shift, on the accumulators outright, on memory by the read-modify-write. -/
theorem shiftsAndRotatesLeft : Obligations.ShiftsAndRotatesLeft := by
  simp only [Obligations.ShiftsAndRotatesLeft, List.forall_mem_cons, List.not_mem_nil, false_implies, implies_true,
    and_true]
  refine ⟨fun s => ⟨?a, ?b⟩, fun m s u a v ha hv => ?mem⟩
  case a | b => exact ⟨⟨_, _, rfl, asl8_gives _ _ _⟩, ⟨_, _, rfl, asl8_gives _ _ _⟩, ⟨_, _, rfl, rol8_gives _ _ _⟩⟩
  case mem =>
    obtain ⟨t, hasl, hstate, hstored⟩ := modifyMemDrawing_completes asl8 ha hv
    obtain ⟨w, hrol, hstate', hstored'⟩ := modifyMem_completes rol8 ha hv
    exact ⟨⟨_, _, t, finish_next.2 hasl, hstate, asl8_gives _ _ _, hstored⟩,
      ⟨_, _, t, finish_next.2 hasl, hstate, asl8_gives _ _ _, hstored⟩,
      ⟨_, _, w, finish_next.2 hrol, hstate', rol8_gives _ _ _, hstored'⟩⟩

/-- Settles O34: each from the law of its shift, on the accumulators outright, on memory by the read-modify-write. -/
theorem shiftsAndRotatesRight : Obligations.ShiftsAndRotatesRight := by
  simp only [Obligations.ShiftsAndRotatesRight, List.forall_mem_cons, List.not_mem_nil, false_implies, implies_true,
    and_true]
  refine ⟨fun s => ⟨?a, ?b⟩, fun m s u a v ha hv => ⟨?asr, ?lsr, ?ror⟩⟩
  case a | b => exact ⟨⟨_, _, rfl, asr8_gives _ _ _⟩, ⟨_, _, rfl, lsr8_gives _ _ _⟩, ⟨_, _, rfl, ror8_gives _ _ _⟩⟩
  case asr =>
    obtain ⟨t, ht, hstate, hstored⟩ := modifyMemDrawing_completes asr8 ha hv
    exact ⟨_, _, t, finish_next.2 ht, hstate, asr8_gives _ _ _, hstored⟩
  case lsr =>
    obtain ⟨t, ht, hstate, hstored⟩ := modifyMem_completes lsr8 ha hv
    exact ⟨_, _, t, finish_next.2 ht, hstate, lsr8_gives _ _ _, hstored⟩
  case ror =>
    obtain ⟨t, ht, hstate, hstored⟩ := modifyMem_completes ror8 ha hv
    exact ⟨_, _, t, finish_next.2 ht, hstate, ror8_gives _ _ _, hstored⟩

/-- Settles O37: bytes and cycles from the tables, each result from the law of its operation. -/
theorem clearComplementShiftAccumulator : Obligations.ClearComplementShiftAccumulator := by
  simp only [Obligations.ClearComplementShiftAccumulator, List.forall_mem_cons, List.not_mem_nil, false_implies,
    implies_true, and_true]
  refine ⟨⟨rfl, rfl, rfl, rfl, rfl, rfl⟩, fun s => ⟨⟨rfl, rfl, rfl, rfl, rfl, rfl⟩, ?a, ?b⟩⟩
  all_goals exact ⟨⟨_, _, rfl, clear_gives _ _ _⟩, ⟨_, _, rfl, com8_gives _ _ _⟩, ⟨_, _, rfl, lsr8_gives _ _ _⟩⟩

/-! ### Decimal adjust -/

/-- Settles O39: DAA adds its correction, carries out, and leaves H. -/
theorem decimalAdjust : Obligations.DecimalAdjust :=
  fun s => ⟨_, _, rfl, daa8_value s.a s.cc, daa8_cells s.a s.cc⟩

section
variable {x m c : Nat} (hxl : x % 16 ≤ 9) (hml : m % 16 ≤ 9) (hc : c ≤ 1)
include hxl hml hc

/-- The low digit is corrected exactly when the low digits carry into the tens. -/
theorem low_corrected_iff :
    16 ≤ x % 16 + m % 16 + c ∨ 9 < (x + m + c) % 256 % 16 ↔ 10 ≤ x % 16 + m % 16 + c := by
  omega

/-- The high digit is corrected exactly when the decimal sum carries into the hundreds: a 9 with a low digit above 9 is
one that the low digit's own correction makes 10. -/
theorem high_corrected_iff :
    256 ≤ x + m + c ∨ 9 < (x + m + c) % 256 / 16 ∨ (8 < (x + m + c) % 256 / 16 ∧ 9 < (x + m + c) % 256 % 16) ↔
      100 ≤ (10 * (x / 16) + x % 16) + (10 * (m / 16) + m % 16) + c := by
  omega

/-- With 6 for a carry into the tens and 96 for one into the hundreds, a sum of packed decimal numbers is packed. -/
theorem corrected_sum_packed (hxh : x / 16 ≤ 9) (hmh : m / 16 ≤ 9) {sum : Nat}
    (hsum : sum = (10 * (x / 16) + x % 16) + (10 * (m / 16) + m % 16) + c) :
    x + m + c + (if 10 ≤ x % 16 + m % 16 + c then 6 else 0) + (if 100 ≤ sum then 96 else 0) =
      256 * (sum / 100) + 16 * (sum % 100 / 10) + sum % 10 := by
  have hunits : sum % 10 = (x % 16 + m % 16 + c) % 10 := by omega
  have htens : sum / 10 = x / 16 + m / 16 + (x % 16 + m % 16 + c) / 10 := by omega
  have hdigit : sum % 100 / 10 = sum / 10 % 10 := by omega
  have hhundreds : sum / 100 = sum / 10 / 10 := by omega
  rw [hdigit, hhundreds, hunits, htens]
  split <;> split <;> omega

end

/-- A packed decimal number below 200 narrowed to a byte keeps its two low digits; the hundreds are the carry, from the
number or from the correction. -/
theorem packed_narrowed {n corr sum : Nat} (hsum : sum < 200)
    (h : n + corr = 256 * (sum / 100) + 16 * (sum % 100 / 10) + sum % 10) :
    (n % 256 + corr) % 256 = 16 * (sum % 100 / 10) + sum % 10 ∧ (256 ≤ n ∨ 256 ≤ n % 256 + corr ↔ 100 ≤ sum) := by
  have hhundreds : sum / 100 ≤ 1 := by omega
  have htens : sum % 100 / 10 ≤ 9 := by omega
  constructor <;> omega

/-- A sum of packed decimal operands, corrected by its digits, its H and its C, is the packed decimal sum (R131). -/
theorem daa8_of_sumOf {x m r old cc : Byte} {c : Bool} (h : SumOf x m c r old cc) (hxl : x.toNat % 16 ≤ 9)
    (hxh : x.toNat / 16 ≤ 9) (hml : m.toNat % 16 ≤ 9) (hmh : m.toNat / 16 ≤ 9) {sum : Nat}
    (hsum : sum = (10 * (x.toNat / 16) + x.toNat % 16) + (10 * (m.toNat / 16) + m.toNat % 16) + c.toNat) :
    (daa8 r cc).1.toNat = 16 * (sum % 100 / 10) + sum % 10 ∧ CC.get (daa8 r cc).2 .c = decide (100 ≤ sum) := by
  obtain ⟨hr, -, -, -, hhalf, -, -, -, hcarry⟩ := h
  obtain ⟨-, -, -, -, -, -, -, hcarry'⟩ := daa8_cells r cc
  have hc := c.toNat_le
  have hsmall : sum < 200 := by omega
  have hpacked := corrected_sum_packed hxl hml hc hxh hmh hsum
  rw [Nat.add_assoc] at hpacked
  have hdecimal : decimalSum r cc = (x.toNat + m.toNat + c.toNat) % 256 +
      (if 10 ≤ x.toNat % 16 + m.toNat % 16 + c.toNat then 6 else 0) + (if 100 ≤ sum then 96 else 0) := by
    simp only [decimalSum, hhalf, hcarry, hr, Option.getD_some, decide_eq_true_eq, low_corrected_iff hxl hml hc,
      high_corrected_iff hxl hml hc, hsum]
  rw [Option.getD_some] at hcarry hcarry'
  rw [daa8_value, hcarry', hcarry, hdecimal, ← Bool.decide_or, decide_eq_decide, Nat.add_assoc]
  exact packed_narrowed hsmall hpacked

/-- Settles O40: A, H and C after the addition are what DAA corrects by. -/
theorem daaCorrectsDecimalSums : Obligations.DaaCorrectsDecimalSums := by
  intro src s u m h hal hah hml hmh
  have hadd (c : Bool) := (addToAcc_ok (r := .a) (cin := c)).2 ⟨m, u, h, rfl⟩
  simp only [List.forall_mem_cons, List.not_mem_nil, false_implies, implies_true, and_true]
  exact ⟨⟨_, _, finish_next.2 (hadd _), rfl, daa8_of_sumOf (add8_sumOf _ _ _ _) hal hah hml hmh rfl⟩,
    ⟨_, _, finish_next.2 (hadd _), rfl, daa8_of_sumOf (add8_sumOf _ _ _ _) hal hah hml hmh rfl⟩⟩

/-! ### ABX, NOP, ANDCC and ORCC -/

/-- Settles O51: bytes and cycles from the tables, the masks flag by flag. -/
theorem abxNopAndMaskInstructions : Obligations.AbxNopAndMaskInstructions := by
  intro s m
  have habx : s.x + zext8 s.b = BitVec.ofNat 16 (s.x.toNat + s.b.toNat) := by
    rw [BitVec.ofNat_add, BitVec.ofNat_toNat, BitVec.ofNat_toNat, BitVec.setWidth_eq]
    rfl
  refine ⟨⟨rfl, rfl, rfl, rfl⟩, ⟨rfl, rfl, rfl, rfl⟩, ?abx, rfl, ⟨_, rfl, fun _ => BitVec.getLsbD_and⟩,
    ⟨_, rfl, fun _ => BitVec.getLsbD_or⟩⟩
  case abx =>
    rw [← habx]
    rfl

/-! ### CWAI and SYNC -/

/-- Stacking the entire state completes where every address reads and writes; the CC stacked has E set (R306). -/
theorem pushFrame_entire_completes {s : State} (h : s.NoHoles) :
    ∃ t, Bus.plain.pushFrame .entire s = .ok t ∧
      t = { s with cc := CC.put s.cc .e true, s := s.s - 12, mem := t.mem } ∧
      Stored (s.s - 12) (entireFrame (CC.put s.cc .e true) s) s t := by
  have hroom : State.NoHoles { s with cc := CC.put s.cc .e true } := h.congr rfl
  obtain ⟨t, ht⟩ := pushList_room RegList.all (hroom.roomBelow .s)
  have hp := pushList_pushed ht
  exact ⟨t, ht, hp.state, hp.stored.congr rfl rfl rfl rfl⟩

/-- Settles O55: CWAI stacks the entire state with the masked CC, E set, and then waits. -/
theorem cwaiAndSync : Obligations.CwaiAndSync := by
  intro s m
  refine ⟨fun hs => ?cwai, rfl⟩
  case cwai =>
    obtain ⟨t, ht, hstate, hstored⟩ := pushFrame_entire_completes (s := { s with cc := s.cc &&& m }) (hs.congr rfl)
    refine ⟨_, finish_next.2 (waitForInterrupt_ok.2 ⟨t, ht, rfl⟩), ?_, hstored.congr rfl rfl rfl rfl⟩
    rw [hstate]
    rfl

end Sys2Proof.Machine
end

section
/-! PROOFS. The instructions of spec/41_eor_to_jsr.md, with those of their kind from the files around it: INC, DEC and CLR,
EXG, and the jumps, calls and returns. -/

namespace Sys2Proof.Machine

/-! ### INC, DEC, CLR -/

/-- INC (R143 to R145). -/
theorem inc8_gives (h : Bool) (v cc : Byte) : Unary.inc.Gives v h (inc8 v cc).1 cc (inc8 v cc).2 := by
  refine ⟨BitVec.toNat_add v 1, ?_⟩
  rw [← nz8_fst, ← nz8_snd, ← beq_eq_decide]
  exact CC.cells_putNZV _ _ _ _

/-- DEC (R132 to R134). -/
theorem dec8_gives (h : Bool) (v cc : Byte) : Unary.dec.Gives v h (dec8 v cc).1 cc (dec8 v cc).2 := by
  have hvalue : ((dec8 v cc).1.toNat : Int) = ((v.toNat : Int) - 1) % 256 := by
    have hv := v.isLt
    have hone : (1 : Byte).toNat = 1 := rfl
    rw [dec8, BitVec.toNat_sub, hone]
    omega
  refine ⟨hvalue, ?_⟩
  rw [← nz8_fst, ← nz8_snd, ← beq_eq_decide]
  exact CC.cells_putNZV _ _ _ _

/-- CLR of memory completes where its byte reads and writes, and stores 0 there (R119). -/
theorem clearMem_completes {m : MemOperand} {s u : State} {a : Word} (ha : effectiveAddress m s = .ok (a, u))
    (husable : u.Usable a) :
    ∃ t, Bus.plain.clearMem m s = .ok t ∧ t = { u with cc := CC.clear u.cc, mem := t.mem } ∧ Stored a [0] u t := by
  obtain ⟨t, ht⟩ := writeByte_usable (s := { u with cc := CC.clear u.cc }) (v := 0) husable
  exact ⟨t, clearMem_ok.2 ⟨a, u, ha, ht⟩, (writeByte_frame ht).1, (writeByte_stored ht).congr rfl rfl rfl rfl⟩

/-- Settles O36: each from the law of its operation, on the accumulators outright, INC and DEC of memory by the
read-modify-write, CLR of memory by its store alone. -/
theorem incrementDecrementClear : Obligations.IncrementDecrementClear := by
  simp only [Obligations.IncrementDecrementClear, List.forall_mem_cons, List.not_mem_nil, false_implies, implies_true,
    and_true]
  refine ⟨fun s => ⟨?a, ?b⟩, fun m s u a v ha hv => ⟨?inc, ?dec, ?clr⟩⟩
  case a | b => exact ⟨⟨_, _, rfl, inc8_gives _ _ _⟩, ⟨_, _, rfl, dec8_gives _ _ _⟩, ⟨_, _, rfl, clear_gives _ _ _⟩⟩
  case inc =>
    obtain ⟨t, ht, hstate, hstored⟩ := modifyMem_completes inc8 ha hv
    exact ⟨_, _, t, finish_next.2 ht, hstate, inc8_gives _ _ _, hstored⟩
  case dec =>
    obtain ⟨t, ht, hstate, hstored⟩ := modifyMem_completes dec8 ha hv
    exact ⟨_, _, t, finish_next.2 ht, hstate, dec8_gives _ _ _, hstored⟩
  case clr =>
    obtain ⟨t, ht, hstate, hstored⟩ := clearMem_completes ha (readByte_ok.1 hv).1
    exact ⟨_, _, t, finish_next.2 ht, hstate, clear_gives _ _ _, hstored⟩

/-! ### EXG -/

/-- A load of S, and of no other 16-bit register, arms NMI (R309). -/
theorem State.load16_nmiArmed (s : State) (r : Reg16) (v : Word) :
    (s.load16 r v).nmiArmed = (s.nmiArmed || decide (r = .s)) :=
  ((Touches.refl (regParts (.r16 r)) s).load16 (List.Subset.refl _) v).nmiArmed

/-- A load of a 16-bit register changes the 16-bit registers and the arming of NMI alone. -/
theorem State.load16_state (s : State) (r : Reg16) (v : Word) :
    s.load16 r v = { s with a := (s.load16 r v).a, b := (s.load16 r v).b, x := (s.load16 r v).x,
                            y := (s.load16 r v).y, u := (s.load16 r v).u, s := (s.load16 r v).s,
                            pc := (s.load16 r v).pc, nmiArmed := (s.load16 r v).nmiArmed } := by
  cases r <;> rfl

/-- A write to an 8-bit register changes the 8-bit registers alone. -/
theorem State.setReg8_state (s : State) (r : Reg8) (v : Byte) :
    s.setReg8 r v = { s with a := (s.setReg8 r v).a, b := (s.setReg8 r v).b, cc := (s.setReg8 r v).cc,
                             dp := (s.setReg8 r v).dp } := by
  cases r <;> rfl

/-- Two values exchanged: where the two places are one, both writes put back what stood there, so their order does not
matter. -/
theorem exchanged_comm {ι α : Type} [DecidableEq ι] (f : ι → α) (p q k : ι) :
    (if k = q then f p else if k = p then f q else f k) = if k = p then f q else if k = q then f p else f k := by
  by_cases hp : k = p
  · by_cases hq : k = q
    · rw [if_pos hq, if_pos hp, ← hp, ← hq]
    · rw [if_neg hq, if_pos hp, if_pos hp]
  · rw [if_neg hp, if_neg hp]

/-- Settles O43: the second write after the first, on each width. -/
theorem exchangeRegisters : Obligations.ExchangeRegisters := by
  refine fun s => ⟨fun p q => ⟨_, rfl, fun k => ?words, ?wordState⟩, fun p q => ⟨_, rfl, fun k => ?bytes, ?byteState⟩⟩
  case words => rw [State.reg16_load16, State.reg16_load16, exchanged_comm]
  case bytes => rw [State.reg8_setReg8, State.reg8_setReg8, exchanged_comm]
  case wordState =>
    refine (State.load16_state _ q _).trans ?_
    simp [State.load16_nmiArmed, Bool.or_assoc]
  case byteState =>
    refine (State.setReg8_state _ q _).trans ?_
    simp

/-! ### JMP, JSR, BSR, LBSR, RTS -/

/-- A call completes where the two bytes below S read and write: the return address stands there, and PC is the
target. -/
theorem call_completes {s : State} (target : Word) (hlo : s.Usable (s.s - 1)) (hhi : s.Usable (s.s - 2)) :
    ∃ t, Bus.plain.call target s = .ok t ∧ t = { s with s := s.s - 2, pc := target, mem := t.mem } ∧
      Stored (s.s - 2) (wordBytes s.pc) s t := by
  obtain ⟨w, hw⟩ := push16_usable (r := .s) hlo hhi s.pc
  have hp := push16_pushed hw
  refine ⟨_, call_ok.2 ⟨w, hw, rfl⟩, ?_, hp.stored.congr rfl rfl rfl rfl⟩
  rw [hp.state]
  rfl

/-- Settles O47: JSR, BSR and LBSR are a call to their target; RTS is a pull of PC. -/
theorem jumpsCallsAndReturns : Obligations.JumpsCallsAndReturns := by
  refine ⟨fun m s u a ha => ⟨?jmp, fun hlo hhi => ?jsr⟩, fun s o w hlo hhi => ⟨?bsr, ?lbsr⟩, fun s h l hh hl => ?rts⟩
  case jmp => exact finish_next.2 (jump_ok.2 ⟨a, u, ha, rfl⟩)
  case jsr =>
    obtain ⟨t, ht, hcalled⟩ := call_completes a hlo hhi
    exact ⟨t, finish_next.2 (jumpToSubroutine_ok.2 ⟨a, u, ha, ht⟩), hcalled⟩
  case bsr =>
    obtain ⟨t, ht, hcalled⟩ := call_completes (s.pc + sext8 o) hlo hhi
    have htarget : s.pc + sext8 o = BitVec.ofInt 16 (s.pc.toNat + o.toInt) := add_signExtend_eq_ofInt (by decide) s.pc o
    exact ⟨t, finish_next.2 ht, htarget ▸ hcalled⟩
  case lbsr =>
    obtain ⟨t, ht, hcalled⟩ := call_completes (s.pc + w) hlo hhi
    exact ⟨t, finish_next.2 ht, add_word_eq_ofInt s.pc w ▸ hcalled⟩
  case rts =>
    rw [← join_eq_ofNat]
    exact finish_next.2 (returnFromSubroutine_ok.2 ⟨_, _, pull16_ok.2 ⟨readWord_of_bytes hh hl, rfl⟩, rfl⟩)

end Sys2Proof.Machine
end

section
/-! PROOFS. The instructions of spec/42_ld_to_psh.md, with those of their kind from the files around it: the loads of
registers and of addresses, NEG and COM, MUL and SEX, and the pushes of a register list. -/

namespace Sys2Proof.Machine

/-! ### The loads -/

/-- `logic16` leaves N and Z of the word, and V clear (R12). -/
theorem logic16_testedWord (cc : Byte) (r : Word) : TestedWord r cc (CC.logic16 cc r) := by
  rw [TestedWord, ← nz16_fst, ← nz16_snd]
  exact CC.cells_putNZV _ _ _ _

/-- Settles O30: `loadAcc` on each accumulator and `loadReg16` on each 16-bit register; the register is written after
the operand has been read, so over an auto increment. -/
theorem loadsFromMemory : Obligations.LoadsFromMemory := by
  refine ⟨fun src s u m h => ?bytes, fun src s u m h => ?words⟩
  case bytes =>
    have hload (r : Acc) := (loadAcc_ok (r := r)).2 ⟨m, u, h, rfl⟩
    exact ⟨_, logic8_testedByte _ _, finish_next.2 (hload .a), finish_next.2 (hload .b)⟩
  case words =>
    have hload (r : Reg16) := (loadReg16_ok (r := r)).2 ⟨m, u, h, rfl⟩
    rw [← hiByte_eq_ofNat, ← loByte_eq_ofNat]
    exact ⟨_, logic16_testedWord _ _, finish_next.2 (hload .d), finish_next.2 (hload .s), finish_next.2 (hload .u),
      finish_next.2 (hload .x), finish_next.2 (hload .y)⟩

/-! ### LEA -/

/-- A row with the cell of Z alone. -/
theorem CC.cells_putZ (cc : Byte) (z : Bool) : CC.Cells cc (CC.put cc .z z) none none (some z) none none := by
  simp [CC.Cells]

/-- Settles O41: `loadAddressZ` on X and Y, `loadAddress` on S and U; the register is written after the address has
formed, so over an auto increment. -/
theorem loadEffectiveAddress : Obligations.LoadEffectiveAddress := by
  intro m s u a h
  have hload (r : Reg16) := (loadAddress_ok (r := r)).2 ⟨a, u, h, rfl⟩
  have hloadZ (r : Reg16) := (loadAddressZ_ok (r := r)).2 ⟨a, u, h, rfl⟩
  rw [← beq_eq_decide]
  exact ⟨⟨_, CC.cells_putZ _ _, finish_next.2 (hloadZ .x), finish_next.2 (hloadZ .y)⟩, finish_next.2 (hload .s),
    finish_next.2 (hload .u)⟩

/-! ### NEG and COM -/

/-- The difference from 0 overflows for -128 alone, whose negative no signed byte holds. -/
theorem overflows8_neg (v : Byte) : overflows8 (-v.toInt) = decide (v = 0x80) := by
  have hlo := v.le_toInt
  have hhi := v.toInt_lt
  have hmin : (0x80 : Byte).toInt = -128 := rfl
  rw [overflows8, decide_eq_decide, ← BitVec.toInt_inj, hmin]
  omega

/-- NEG: the difference of 0 and the value (R178 to R180). -/
theorem neg8_gives (h : Bool) (v cc : Byte) : Unary.neg.Gives v h (neg8 h v cc).1 cc (neg8 h v cc).2 := by
  obtain ⟨hvalue, hcells⟩ := sub8_differenceOf 0 v cc false h
  have hneg (i : Int) : 0 - i - (false.toNat : Int) = -i := by rw [Bool.toNat_false, Nat.cast_zero, sub_zero, zero_sub]
  have hv : overflows8 ((0 : Byte).toInt - v.toInt - false.toNat) = decide (v = 0x80) :=
    (congrArg overflows8 (hneg v.toInt)).trans (overflows8_neg v)
  have hc : decide ((0 : Byte).toNat < v.toNat + false.toNat) = decide (v ≠ 0) :=
    decide_eq_decide.2 (Nat.pos_iff_ne_zero.trans (BitVec.toNat_ne_iff_ne (y := 0)))
  rw [hv, hc] at hcells
  exact ⟨hvalue.trans (congrArg (· % 256) (hneg v.toNat)), hcells⟩

/-- Settles O35: each from the law of its operation, on the accumulators outright, on memory by the
read-modify-write. -/
theorem negateAndComplement : Obligations.NegateAndComplement := by
  simp only [Obligations.NegateAndComplement, List.forall_mem_cons, List.not_mem_nil, false_implies, implies_true,
    and_true]
  refine ⟨fun s => ⟨?a, ?b⟩, fun m s u a v ha hv => ⟨?neg, ?com⟩⟩
  case a | b => exact ⟨⟨_, _, rfl, neg8_gives _ _ _⟩, ⟨_, _, rfl, com8_gives _ _ _⟩⟩
  case neg =>
    obtain ⟨t, ht, hstate, hstored⟩ := modifyMemDrawing_completes neg8 ha hv
    exact ⟨_, _, t, finish_next.2 ht, hstate, neg8_gives _ _ _, hstored⟩
  case com =>
    obtain ⟨t, ht, hstate, hstored⟩ := modifyMem_completes com8 ha hv
    exact ⟨_, _, t, finish_next.2 ht, hstate, com8_gives _ _ _, hstored⟩

/-! ### MUL and SEX -/

/-- A row with the cells of Z and C alone. -/
theorem CC.cells_putZC (cc : Byte) (z c : Bool) :
    CC.Cells cc (CC.put (CC.put cc .z z) .c c) none none (some z) none (some c) := by
  simp [CC.Cells]

/-- The product of two bytes fits in a word. -/
theorem product_toNat (x y : Byte) : (BitVec.ofNat 16 (x.toNat * y.toNat)).toNat = x.toNat * y.toNat := by
  have hfits : x.toNat * y.toNat < 2 ^ 8 * 2 ^ 8 := Nat.mul_lt_mul'' x.isLt y.isLt
  rw [BitVec.toNat_ofNat]
  exact Nat.mod_eq_of_lt hfits

/-- MUL: the unsigned product in A:B, Z for product 0, C its bit 7 (R177; D26). -/
theorem exec_mul (s : State) : ∃ cc,
    exec .mul s = .next { s with a := BitVec.ofNat 8 (s.a.toNat * s.b.toNat / 256),
                                 b := BitVec.ofNat 8 (s.a.toNat * s.b.toNat), cc := cc } ∧
      CC.Cells s.cc cc none none (some (decide (s.a.toNat * s.b.toNat = 0))) none
        (some (decide (s.a.toNat * s.b.toNat / 128 % 2 = 1))) := by
  have hp := product_toNat s.a s.b
  have hz : (BitVec.ofNat 16 (s.a.toNat * s.b.toNat) == 0) = decide (s.a.toNat * s.b.toNat = 0) := by
    rw [beq_eq_decide, decide_eq_decide, ← BitVec.toNat_inj, hp]
    rfl
  have hc : (BitVec.ofNat 16 (s.a.toNat * s.b.toNat)).getLsbD 7 = decide (s.a.toNat * s.b.toNat / 128 % 2 = 1) := by
    rw [← BitVec.testBit_toNat, Nat.testBit_eq_decide_div_mod_eq, hp]
  have hhi := hiByte_eq_ofNat (BitVec.ofNat 16 (s.a.toNat * s.b.toNat))
  have hlo := loByte_eq_ofNat (BitVec.ofNat 16 (s.a.toNat * s.b.toNat))
  rw [hp] at hhi hlo
  rw [← hz, ← hc, ← hhi, ← hlo]
  exact ⟨_, rfl, CC.cells_putZC _ _ _⟩

/-- A byte with its sign in all eight bits above it keeps its signed value (R212). -/
theorem join_sign_toInt (b : Byte) : (join (if b.msb then 0xFF else 0x00) b).toInt = b.toInt := by
  have hb := b.isLt
  rw [BitVec.msb_eq_decide, BitVec.toInt_eq_toNat_cond, BitVec.toInt_eq_toNat_cond, join_toNat]
  rcases lt_or_ge b.toNat 128 with hpos | hneg
  · rw [decide_eq_false (by omega), if_neg Bool.false_ne_true, show (0x00 : Byte).toNat = 0 from rfl]
    omega
  · rw [decide_eq_true (by omega), if_pos rfl, show (0xFF : Byte).toNat = 255 from rfl]
    omega

/-- Settles O38: bytes and cycles from the tables, the product and the sign extension in whole numbers. -/
theorem mulAndSex : Obligations.MulAndSex := by
  refine ⟨⟨rfl, rfl⟩, fun s => ⟨⟨rfl, rfl⟩, exec_mul s, _, _, rfl, join_sign_toInt s.b, ?sexFlags⟩⟩
  case sexFlags =>
    rw [← nz8_fst, ← nz8_snd]
    exact CC.cells_putNZV _ _ _ _

/-! ### PSHS and PSHU -/

theorem length_ite_word_eq (p : Bool) (v : Word) : (if p then wordBytes v else []).length = 2 * p.toNat := by
  cases p <;> rfl

theorem length_ite_byte_eq (p : Bool) (v : Byte) : (if p then [v] else []).length = p.toNat := by
  cases p <;> rfl

/-- A list's frame has the bytes that its cycles count (R84, R346 b). -/
theorem frameBytes_length (r : StackReg) (l : RegList) (s : State) : (frameBytes r l s).length = listByteCount l := by
  simp only [frameBytes, List.length_append, length_ite_word_eq, length_ite_byte_eq, listByteCount]
  omega

/-- A push of a list completes where every address reads and writes, with the list's frame below the old pointer. -/
theorem pushList_completes (r : StackReg) (l : RegList) {s : State} (h : s.NoHoles) :
    ∃ t, Bus.plain.pushList r l s = .ok t ∧ Pushed r (frameBytes r l s) s t := by
  obtain ⟨t, ht⟩ := pushList_room l (h.roomBelow r)
  exact ⟨t, ht, pushList_pushed ht⟩

/-- Settles O44: the push of the list on each stack, and the length of its frame. -/
theorem pushRegisterList : Obligations.PushRegisterList := by
  refine fun l s => ⟨?cyclesS, ?cyclesU, fun h => ⟨?pshs, ?pshu⟩⟩
  case cyclesS | cyclesU =>
    rw [frameBytes_length]
    rfl
  case pshs =>
    obtain ⟨t, ht, hpushed⟩ := pushList_completes .s l h
    exact ⟨t, finish_next.2 ht, hpushed.state, hpushed.stored⟩
  case pshu =>
    obtain ⟨t, ht, hpushed⟩ := pushList_completes .u l h
    exact ⟨t, finish_next.2 ht, hpushed.state, hpushed.stored⟩

end Sys2Proof.Machine
end

section
/-! PROOFS. The instructions of spec/43_pul_to_tst.md, with those of their kind from the files around it: SUB and SBC, the
stores, TFR, the pulls of a register list, and RTI. -/

namespace Sys2Proof.Machine

/-! ### SUB and SBC -/

/-- Settles O24: `subFromAcc` on each accumulator, with the difference of R9 and the half carry drawn; the borrow in is
the carry from before the operand. -/
theorem subtractAndSubtractWithBorrow : Obligations.SubtractAndSubtractWithBorrow := by
  intro src s u m h
  have hsub (r : Acc) (c : Bool) := (subFromAcc_ok (r := r) (bin := c)).2 ⟨m, u, h, rfl⟩
  exact ⟨⟨_, _, finish_next.2 (hsub .a _), sub8_differenceOf _ _ _ _ _⟩,
    ⟨_, _, finish_next.2 (hsub .b _), sub8_differenceOf _ _ _ _ _⟩,
    ⟨_, _, finish_next.2 (hsub .a _), sub8_differenceOf _ _ _ _ _⟩,
    ⟨_, _, finish_next.2 (hsub .b _), sub8_differenceOf _ _ _ _ _⟩⟩

/-! ### The stores -/

/-- A store of an accumulator completes where its byte reads and writes; the accumulator is read after the address is
formed (R344). -/
theorem storeAcc_completes (r : Acc) {m : MemOperand} {s u : State} {a : Word}
    (ha : effectiveAddress m s = .ok (a, u)) (husable : u.Usable a) :
    ∃ t, Bus.plain.storeAcc r m s = .ok t ∧ t = { u with cc := CC.logic8 u.cc (u.acc r), mem := t.mem } ∧
      Stored a [u.acc r] u t := by
  obtain ⟨w, hw⟩ := writeByte_usable (v := u.acc r) husable
  refine ⟨_, storeAcc_ok.2 ⟨a, u, w, ha, hw, rfl⟩, ?_, (writeByte_stored hw).congr rfl rfl rfl rfl⟩
  rw [(writeByte_frame hw).1]

/-- A store of a 16-bit register completes where its two bytes read and write. -/
theorem storeReg16_completes (r : Reg16) {m : MemOperand} {s u : State} {a : Word}
    (ha : effectiveAddress m s = .ok (a, u)) (hhi : u.Usable a) (hlo : u.Usable (a + 1)) :
    ∃ t, Bus.plain.storeReg16 r m s = .ok t ∧ t = { u with cc := CC.logic16 u.cc (u.reg16 r), mem := t.mem } ∧
      Stored a (wordBytes (u.reg16 r)) u t := by
  obtain ⟨w, hw⟩ := writeWord_usable (v := u.reg16 r) hhi hlo
  refine ⟨_, storeReg16_ok.2 ⟨a, u, w, ha, hw, rfl⟩, ?_, (writeWord_stored hw).congr rfl rfl rfl rfl⟩
  rw [(writeWord_frame hw).1]

/-- Settles O31: `storeAcc` on each accumulator, with the flags of `logic8`. -/
theorem storeAccumulator : Obligations.StoreAccumulator := by
  intro m s u a ha husable
  obtain ⟨t, hsta, hstate, hstored⟩ := storeAcc_completes .a ha husable
  obtain ⟨w, hstb, hstate', hstored'⟩ := storeAcc_completes .b ha husable
  exact ⟨⟨_, t, finish_next.2 hsta, hstate, logic8_testedByte _ _, hstored⟩,
    ⟨_, w, finish_next.2 hstb, hstate', logic8_testedByte _ _, hstored'⟩⟩

/-- Settles O32: `storeReg16` on each register, with the flags of `logic16`; D is A and B side by side. -/
theorem storeWordRegister : Obligations.StoreWordRegister := by
  intro m s u a ha hhi hlo
  have hstore (r : Reg16) : ∃ cc t, Bus.plain.storeReg16 r m s = .ok t ∧ t = { u with cc := cc, mem := t.mem } ∧
      TestedWord (u.reg16 r) u.cc cc ∧ Stored a (wordBytes (u.reg16 r)) u t := by
    obtain ⟨t, ht, hstate, hstored⟩ := storeReg16_completes r ha hhi hlo
    exact ⟨_, t, ht, hstate, logic16_testedWord _ _, hstored⟩
  simp only [← finish_next] at hstore
  rw [← join_eq_ofNat]
  exact ⟨hstore .d, hstore .s, hstore .u, hstore .x, hstore .y⟩

/-! ### TFR -/

/-- Settles O42: the one write, on each width. -/
theorem transferBetweenRegisters : Obligations.TransferBetweenRegisters := by
  refine fun s => ⟨fun p q => ⟨_, rfl, fun k => ?words, ?wordState⟩, fun p q => ⟨_, rfl, fun k => ?bytes, ?byteState⟩⟩
  case words => exact State.reg16_load16 s q k _
  case bytes => exact State.reg8_setReg8 s q k _
  case wordState =>
    rw [← State.load16_nmiArmed]
    exact State.load16_state s q _
  case byteState => exact State.setReg8_state s q _

/-! ### PULS and PULU -/

/-- Bytes that begin at `k` are each fetched at their place. -/
theorem getElem_of_fetches {ε : Type} {fetch : Nat → Except ε Byte} {k : Nat} {bs : List Byte} (h : Fetches fetch k bs) :
    ∀ j, ∀ b ∈ bs[j]?, fetch (k + j) = .ok b := by
  induction bs generalizing k with
  | nil => exact fun j b hb => nomatch hb
  | cons v bs ih =>
    obtain ⟨hhead, htail⟩ := h
    intro j b hb
    cases j with
    | zero =>
      obtain rfl := Option.some.inj hb
      exact hhead
    | succ j =>
      rw [← Nat.add_assoc, Nat.add_right_comm]
      exact ih htail j b hb

theorem State.setReg8_setSp (s : State) (r : StackReg) (q : Reg8) (v : Byte) (w : Word) :
    (s.setSp r w).setReg8 q v = (s.setReg8 q v).setSp r w := by
  cases r <;> cases q <;> rfl

theorem State.load16_setSp {q : Reg16} (hs : q ≠ .s) (hu : q ≠ .u) (s : State) (r : StackReg) (v w : Word) :
    (s.setSp r w).load16 q v = (s.load16 q v).setSp r w := by
  cases q with
  | s => exact absurd rfl hs
  | u => exact absurd rfl hu
  | d | x | y | pc => cases r <;> rfl

/-- A load of the value that a 16-bit register holds already: of S alone it changes the state, as it arms NMI. -/
theorem State.load16_reg16 {q : Reg16} (hs : q ≠ .s) (s : State) : s.load16 q (s.reg16 q) = s := by
  cases q with
  | s => exact absurd rfl hs
  | d => simp [State.load16, State.reg16, State.setD, State.d]
  | x | y | u | pc => rfl

section
variable {named : Bool} {r : StackReg} {p : State} {a : Word} {k : Nat}

/-- A byte pulled, or not, into a register. -/
theorem pullByteIf_takes {v : Byte} (q : Reg8) (h : Fetches (bytesUpFrom p a) k (if named then [v] else [])) :
    Bus.plain.pullByteIf named r (fun s v => s.setReg8 q v) (p.setSp r (a + BitVec.ofNat 16 k)) =
      .ok ((p.setReg8 q (if named then v else p.reg8 q)).setSp r
        (a + BitVec.ofNat 16 (k + (if named then [v] else []).length))) := by
  cases named with
  | false => cases q <;> rfl
  | true =>
    have hread : readByte (p.setSp r (a + BitVec.ofNat 16 k)) ((p.setSp r (a + BitVec.ofNat 16 k)).sp r) = .ok v := by
      rw [State.sp_setSp, if_pos rfl, readByte_setSp]
      exact h.1
    refine pullByteIf_ok.2 ⟨v, _, pull8_ok.2 ⟨hread, rfl⟩, ?_⟩
    rw [setSp_setSp, State.setReg8_setSp]
    simp only [State.sp_setSp, if_true]
    exact congrArg ((p.setReg8 q v).setSp r) (add_ofNat_add a k 1).symm

/-- A word pulled, or not, into a 16-bit register that is no stack pointer. -/
theorem pullWordIf_takes {v : Word} (q : Reg16) (hs : q ≠ .s) (hu : q ≠ .u)
    (h : Fetches (bytesUpFrom p a) k (if named then wordBytes v else [])) :
    Bus.plain.pullWordIf named r (fun s v => s.load16 q v) (p.setSp r (a + BitVec.ofNat 16 k)) =
      .ok ((p.load16 q (if named then v else p.reg16 q)).setSp r
        (a + BitVec.ofNat 16 (k + (if named then wordBytes v else []).length))) := by
  refine pullWordIf_of_fetches (fun hn w => ?_) (fun hn => ?_) h
  · rw [State.load16_setSp hs hu, if_pos hn]
  · rw [if_neg (by simp [hn]), State.load16_reg16 hs]

end

/-- `p` with the other stack pointer as `f` has it if the list names it: of S that arms NMI (R309). -/
def takeOtherSp (r : StackReg) (named : Bool) (f p : State) : State :=
  { p with u := if named && decide (r = .s) then f.u else p.u, s := if named && decide (r = .u) then f.s else p.s,
           nmiArmed := p.nmiArmed || (named && decide (r = .u)) }

/-- The other stack pointer pulled, or not. -/
theorem pullOtherSpIf_takes {named : Bool} {r : StackReg} {f p : State} {a : Word} {k : Nat}
    (h : Fetches (bytesUpFrom p a) k (if named then wordBytes (f.otherSp r) else [])) :
    Bus.plain.pullWordIf named r (fun s v => s.loadOtherSp r v) (p.setSp r (a + BitVec.ofNat 16 k)) =
      .ok ((takeOtherSp r named f p).setSp r
        (a + BitVec.ofNat 16 (k + (if named then wordBytes (f.otherSp r) else []).length))) := by
  refine pullWordIf_of_fetches (fun hn w => ?_) (fun hn => ?_) h
  · cases r <;> simp [takeOtherSp, hn, State.loadOtherSp, State.load16, State.setSp, State.otherSp]
  · simp [takeOtherSp, hn]

/-- `p` with the registers that the list names as `f` has them (R84). -/
def takeNamed (r : StackReg) (l : RegList) (f p : State) : State :=
  takeOtherSp r l.other f
    { p with cc := if l.cc then f.cc else p.cc, a := if l.a then f.a else p.a, b := if l.b then f.b else p.b,
             dp := if l.dp then f.dp else p.dp, x := if l.x then f.x else p.x, y := if l.y then f.y else p.y,
             pc := if l.pc then f.pc else p.pc }

/-- A pull of a list takes the registers named from the frame at the pointer, and moves the pointer above it. -/
theorem pullList_takes {r : StackReg} {l : RegList} {f p : State} {a : Word}
    (h : Fetches (bytesUpFrom p a) 0 (frameBytes r l f)) :
    Bus.plain.pullList r l (p.setSp r a) =
      .ok ((takeNamed r l f p).setSp r (a + BitVec.ofNat 16 (frameBytes r l f).length)) := by
  simp only [frameBytes, List.append_assoc, fetches_append] at h
  obtain ⟨hcc, ha, hb, hdp, hx, hy, hother, hpc⟩ := h
  have hstart : p.setSp r a = p.setSp r (a + BitVec.ofNat 16 0) := congrArg (p.setSp r) (BitVec.add_zero a).symm
  rw [hstart]
  simp only [Bus.pullList, Res.bind_ok]
  refine ⟨_, pullByteIf_takes .cc hcc, _, pullByteIf_takes .a ha, _, pullByteIf_takes .b hb,
    _, pullByteIf_takes .dp hdp, _, pullWordIf_takes .x (by decide) (by decide) hx,
    _, pullWordIf_takes .y (by decide) (by decide) hy, _, pullOtherSpIf_takes hother, ?_⟩
  refine Eq.trans (pullWordIf_takes .pc (by decide) (by decide) hpc) ?_
  simp only [frameBytes, List.length_append, Nat.add_assoc, Nat.zero_add]
  rfl

/-- Without holes the bytes from any address up are the frame of some registers. -/
theorem exists_frame_fetched {s : State} (h : s.NoHoles) (r : StackReg) (l : RegList) (a : Word) :
    ∃ f, Fetches (bytesUpFrom s a) 0 (frameBytes r l f) := by
  have hread (k : Nat) : ∃ v, bytesUpFrom s a k = .ok v := readByte_usable (h _)
  choose byte hbyte using hread
  have hbyteIf (named : Bool) (k : Nat) : Fetches (bytesUpFrom s a) k (if named then [byte k] else []) := by
    cases named <;> simp [hbyte]
  have hwordIf (named : Bool) (k : Nat) :
      Fetches (bytesUpFrom s a) k (if named then wordBytes (join (byte k) (byte (k + 1))) else []) := by
    cases named <;> simp [wordBytes, hbyte]
  simp only [frameBytes, List.append_assoc, fetches_append, length_ite_byte_eq, length_ite_word_eq]
  cases r with
  | s =>
    exact ⟨{ s with cc := _, a := _, b := _, dp := _, x := _, y := _, u := _, pc := _ },
      hbyteIf _ _, hbyteIf _ _, hbyteIf _ _, hbyteIf _ _, hwordIf _ _, hwordIf _ _, hwordIf _ _, hwordIf _ _⟩
  | u =>
    exact ⟨{ s with cc := _, a := _, b := _, dp := _, x := _, y := _, s := _, pc := _ },
      hbyteIf _ _, hbyteIf _ _, hbyteIf _ _, hbyteIf _ _, hwordIf _ _, hwordIf _ _, hwordIf _ _, hwordIf _ _⟩

/-- A value taken where the list names its register, and used where it does. -/
theorem ite_apply_ite {α β : Type} (named : Bool) (g : α → β) (x y : α) (z : β) :
    (if named then g (if named then x else y) else z) = if named then g x else z := by
  cases named <;> rfl

theorem ite_ite_same {α : Type} (named : Bool) (x y : α) :
    (if named then (if named then x else y) else y) = if named then x else y :=
  ite_apply_ite named id x y y

section
variable (r : StackReg) (l : RegList) (f p : State) (w : Word)

/-- The frame of a list is that of the registers taken. -/
theorem frameBytes_takeNamed : frameBytes r l ((takeNamed r l f p).setSp r w) = frameBytes r l f := by
  have hother : ((takeNamed r l f p).setSp r w).otherSp r = if l.other then f.otherSp r else p.otherSp r := by
    cases r <;> simp [takeNamed, takeOtherSp, State.otherSp, State.setSp]
  simp only [frameBytes, hother]
  simp [takeNamed, takeOtherSp, ite_apply_ite _ (fun v => [v]), ite_apply_ite _ wordBytes]

/-- Taken once more, the registers are the same. -/
theorem takeNamed_takeNamed : takeNamed r l ((takeNamed r l f p).setSp r w) p = takeNamed r l f p := by
  cases r <;> simp [takeNamed, takeOtherSp, State.setSp, ite_ite_same]

end

/-- A pull of a list completes where every address reads: what it leaves in the registers named is what the stack
holds from the pointer up, and nothing else changes. -/
theorem pullList_completes (r : StackReg) (l : RegList) {s : State} (h : s.NoHoles) :
    ∃ t, Bus.plain.pullList r l s = .ok t ∧
      t = (takeNamed r l t s).setSp r (s.sp r + BitVec.ofNat 16 (frameBytes r l t).length) ∧
      ∀ k : Nat, ∀ b ∈ (frameBytes r l t)[k]?, readByte s (s.sp r + BitVec.ofNat 16 k) = .ok b := by
  obtain ⟨f, hf⟩ := exists_frame_fetched h r l (s.sp r)
  have hpull := pullList_takes hf
  have hs : s.setSp r (s.sp r) = s := by cases r <;> rfl
  rw [hs] at hpull
  refine ⟨_, hpull, ?_, fun k b hb => ?_⟩
  · rw [takeNamed_takeNamed, frameBytes_takeNamed]
  · rw [frameBytes_takeNamed] at hb
    rw [← Nat.zero_add k]
    exact getElem_of_fetches hf k b hb

/-- Settles O45: the pull of the list on each stack, and the length of its frame. -/
theorem pullRegisterList : Obligations.PullRegisterList := by
  refine fun l s => ⟨?cyclesS, ?cyclesU, fun h => ⟨?puls, ?pulu⟩⟩
  case cyclesS | cyclesU =>
    rw [frameBytes_length]
    rfl
  case puls =>
    obtain ⟨t, ht, hstate, hframe⟩ := pullList_completes .s l h
    refine ⟨t, finish_next.2 ht, hstate.trans ?_, hframe⟩
    simp [takeNamed, takeOtherSp, State.setSp, State.sp]
  case pulu =>
    obtain ⟨t, ht, hstate, hframe⟩ := pullList_completes .u l h
    refine ⟨t, finish_next.2 ht, hstate.trans ?_, hframe⟩
    simp [takeNamed, takeOtherSp, State.setSp, State.sp]

/-! ### RTI -/

/-- What RTI pulls: with E set every register, with E clear CC and PC (R208, R306). -/
def returnList (e : Bool) : RegList :=
  if e then RegList.all
  else { pc := true, other := false, y := false, x := false, dp := false, b := false, a := false, cc := true }

/-- A return is the pull of the list that the E bit on the stack selects. -/
theorem returnFromException_eq_pullList {s : State} {cc : Byte} (h : readByte s s.s = .ok cc) :
    Bus.plain.returnFromException s = Bus.plain.pullList .s (returnList (CC.get cc .e)) s := by
  have hcc : Bus.plain.pull8 .s s = .ok (cc, s.setSp .s (s.s + 1)) := pull8_ok.2 ⟨h, rfl⟩
  have hpull (l : RegList) (hl : l.cc = true) : Bus.plain.pullList .s l s =
      Bus.plain.pullList .s { l with cc := false } { s.setSp .s (s.s + 1) with cc := cc } := by
    simp only [Bus.pullList, Bus.pullByteIf, hl, if_true, hcc]
    rfl
  have hreturn : Bus.plain.returnFromException s = if CC.get cc .e then
        Bus.plain.pullList .s { RegList.all with cc := false } { s.setSp .s (s.s + 1) with cc := cc }
      else Bus.plain.pull16 .s { s.setSp .s (s.s + 1) with cc := cc } >>= fun (v, u) => pure { u with pc := v } := by
    rw [Bus.returnFromException, hcc]
    rfl
  rw [hreturn]
  cases CC.get cc .e with
  | false => exact (hpull (returnList false) rfl).symm
  | true => exact (hpull RegList.all rfl).symm

/-- RTI completes where every address reads: the list that the E bit at S selects is pulled, CC among it. -/
theorem returnFromException_completes {s : State} {cc : Byte} (h : s.NoHoles) (hcc : readByte s s.s = .ok cc)
    {l : RegList} (hl : returnList (CC.get cc .e) = l) :
    ∃ t, Bus.plain.returnFromException s = .ok t ∧ t.cc = cc ∧
      t = (takeNamed .s l t s).setSp .s (s.s + BitVec.ofNat 16 (listByteCount l)) ∧
      ∀ k : Nat, ∀ b ∈ (frameBytes .s l t)[k]?, readByte s (s.s + BitVec.ofNat 16 k) = .ok b := by
  obtain ⟨t, ht, hstate, hframe⟩ := pullList_completes .s l h
  have hnamed : l.cc = true := by
    rw [← hl]
    cases CC.get cc .e <;> rfl
  have hhead : (frameBytes .s l t)[0]? = some t.cc := by
    simp [frameBytes, hnamed]
  have htcc : readByte s s.s = .ok t.cc :=
    (congrArg (readByte s) (BitVec.add_zero s.s)).symm.trans (hframe 0 t.cc hhead)
  rw [frameBytes_length] at hstate
  exact ⟨t, (hl ▸ returnFromException_eq_pullList hcc).trans ht, Except.ok.inj (htcc.symm.trans hcc), hstate, hframe⟩

/-- Settles O53: the pull of the entire state, or of CC and PC, as the E bit at S says. -/
theorem returnFromInterrupt : Obligations.ReturnFromInterrupt := by
  refine fun s cc h hcc => ⟨fun he => ?entire, fun he => ?short⟩
  case entire | short =>
    obtain ⟨t, ht, rfl, hstate, hframe⟩ := returnFromException_completes h hcc (congrArg returnList he)
    refine ⟨t, finish_next.2 ht, hstate.trans ?_, hframe⟩
    simp [takeNamed, takeOtherSp, returnList, RegList.all, State.setSp, listByteCount]

end Sys2Proof.Machine
end

section
/-! PROOFS. The branches of spec/44_branches.md: the target of a branch on its condition, and what the conditions say of
the flags that a comparison leaves. -/

namespace Sys2Proof.Machine

/-! ### The target of a branch -/

theorem branch_word (k : Cond) (o : Word) (s : State) :
    branch k o s = { s with pc := if k.holds s.cc then BitVec.ofInt 16 (s.pc.toNat + o.toInt) else s.pc } := by
  rw [branch, add_word_eq_ofInt]
  split <;> rfl

theorem branch_sext8 (k : Cond) (o : Byte) (s : State) :
    branch k (sext8 o) s = { s with pc := if k.holds s.cc then BitVec.ofInt 16 (s.pc.toNat + o.toInt) else s.pc } := by
  rw [branch, sext8, add_signExtend_eq_ofInt (by decide)]
  split <;> rfl

section
variable {i : Instr} {s : State} {taken : Bool}

/-- An instruction that is a branch with an 8-bit offset, and whether it is taken (R82, R250). -/
theorem exec_shortBranch {o : Byte} (k : Cond) (hexec : exec i s = .next (branch k (sext8 o) s))
    (hk : k.holds s.cc = taken) :
    exec i s = .next { s with pc := if taken then BitVec.ofInt 16 (s.pc.toNat + o.toInt) else s.pc } := by
  rw [hexec, branch_sext8, hk]

/-- An instruction that is a branch with a 16-bit offset, and whether it is taken (R82, R250). -/
theorem exec_longBranch {o : Word} (k : Cond) (hexec : exec i s = .next (branch k o s)) (hk : k.holds s.cc = taken) :
    exec i s = .next { s with pc := if taken then BitVec.ofInt 16 (s.pc.toNat + o.toInt) else s.pc } := by
  rw [hexec, branch_word, hk]

end

/-- A condition depends on N, Z, V and C alone (R250). -/
theorem Cond.holds_congr (k : Cond) {old new : Byte} (hn : CC.get new .n = CC.get old .n)
    (hz : CC.get new .z = CC.get old .z) (hv : CC.get new .v = CC.get old .v) (hc : CC.get new .c = CC.get old .c) :
    k.holds new = k.holds old := by
  cases k
  case always | never => rfl
  all_goals simp only [Cond.holds, hn, hz, hv, hc]

/-- Settles O48: each branch by its own condition. -/
theorem branchesTakenByTheirCondition : Obligations.BranchesTakenByTheirCondition := by
  simp only [Obligations.BranchesTakenByTheirCondition, List.forall_mem_cons, List.not_mem_nil, false_implies,
    implies_true, and_true]
  refine ⟨fun s o w => ⟨?short, ?long⟩, fun cc => ?complementary, fun k _ _ => k.holds_congr⟩
  case short =>
    exact ⟨exec_shortBranch .always rfl rfl, exec_shortBranch .never rfl rfl, exec_shortBranch .hi rfl rfl,
      exec_shortBranch .ls rfl rfl, exec_shortBranch .cc rfl rfl, exec_shortBranch .cc rfl rfl,
      exec_shortBranch .cs rfl rfl, exec_shortBranch .cs rfl rfl, exec_shortBranch .ne rfl rfl,
      exec_shortBranch .eq rfl rfl, exec_shortBranch .vc rfl rfl, exec_shortBranch .vs rfl rfl,
      exec_shortBranch .pl rfl rfl, exec_shortBranch .mi rfl rfl, exec_shortBranch .ge rfl rfl,
      exec_shortBranch .lt rfl rfl, exec_shortBranch .gt rfl rfl, exec_shortBranch .le rfl rfl⟩
  case long =>
    exact ⟨exec_longBranch .always rfl rfl, exec_longBranch .never rfl rfl, exec_longBranch .hi rfl rfl,
      exec_longBranch .ls rfl rfl, exec_longBranch .cc rfl rfl, exec_longBranch .cc rfl rfl,
      exec_longBranch .cs rfl rfl, exec_longBranch .cs rfl rfl, exec_longBranch .ne rfl rfl,
      exec_longBranch .eq rfl rfl, exec_longBranch .vc rfl rfl, exec_longBranch .vs rfl rfl,
      exec_longBranch .pl rfl rfl, exec_longBranch .mi rfl rfl, exec_longBranch .ge rfl rfl,
      exec_longBranch .lt rfl rfl, exec_longBranch .gt rfl rfl, exec_longBranch .le rfl rfl⟩
  case complementary => exact ⟨rfl, rfl, rfl, rfl, rfl, rfl, rfl, rfl⟩

/-- Settles O49: bytes and cycles from the tables, each branch by its flag. -/
theorem branchesOnOneFlag : Obligations.BranchesOnOneFlag := by
  simp only [Obligations.BranchesOnOneFlag, List.forall_mem_cons, List.not_mem_nil, false_implies, implies_true,
    and_true]
  refine fun o w => ⟨⟨rfl, rfl, rfl, rfl, rfl, rfl⟩, ⟨rfl, rfl, rfl, rfl, rfl, rfl⟩, fun s => ⟨?short, ?long⟩⟩
  case short =>
    exact ⟨⟨rfl, exec_shortBranch .cc rfl rfl⟩, ⟨rfl, exec_shortBranch .cs rfl rfl⟩,
      ⟨rfl, exec_shortBranch .eq rfl rfl⟩, ⟨rfl, exec_shortBranch .ne rfl rfl⟩,
      ⟨rfl, exec_shortBranch .vc rfl rfl⟩, ⟨rfl, exec_shortBranch .vs rfl rfl⟩⟩
  case long =>
    exact ⟨⟨rfl, exec_longBranch .cc rfl rfl⟩, ⟨rfl, exec_longBranch .cs rfl rfl⟩,
      ⟨rfl, exec_longBranch .eq rfl rfl⟩, ⟨rfl, exec_longBranch .ne rfl rfl⟩,
      ⟨rfl, exec_longBranch .vc rfl rfl⟩, ⟨rfl, exec_longBranch .vs rfl rfl⟩⟩

/-! ### The conditions after a comparison -/

/-- What the conditions of R250 read in `cc` is the comparison of `x` with `m`: C says less as unsigned numbers, Z equal,
and N differs from V if `x` is less as signed numbers. -/
structure Compared {w : Nat} (x m : BitVec w) (cc : Byte) : Prop where
  below : CC.get cc .c = decide (x.toNat < m.toNat)
  equal : CC.get cc .z = decide (x = m)
  less : (CC.get cc .n ^^ CC.get cc .v) = decide (x.toInt < m.toInt)

section
variable {w : Nat} {x m r : BitVec w} {cc : Byte}

theorem ofInt_toInt_sub_toInt (x m : BitVec w) : BitVec.ofInt w (x.toInt - m.toInt) = x - m := by
  apply BitVec.eq_of_toInt_eq
  rw [BitVec.toInt_ofInt, BitVec.toInt_sub]

theorem eq_sub_of_toNat (h : (r.toNat : Int) = ((x.toNat : Int) - m.toNat) % (2 ^ w : Nat)) : r = x - m := by
  have hunsigned := ofInt_sub_eq_ofInt x m 0
  rw [Int.sub_zero, Int.sub_zero, ofInt_toInt_sub_toInt] at hunsigned
  apply BitVec.eq_of_toNat_eq
  rw [← hunsigned, BitVec.toNat_ofInt, ← h, Int.toNat_natCast]

/-- The sign of a difference is that of the whole number, unless it overflows (R9, R11); so N and V together tell the
signed order. -/
theorem compared_of_difference (hw : 0 < w) (hr : r = x - m) (hn : CC.get cc .n = decide (r.toInt < 0))
    (hz : CC.get cc .z = decide (r = 0))
    (hv : CC.get cc .v = decide (2 * (x.toInt - m.toInt) < -2 ^ w ∨ 2 ^ w ≤ 2 * (x.toInt - m.toInt)))
    (hc : CC.get cc .c = decide (x.toNat < m.toNat)) : Compared x m cc := by
  have hxlo := x.le_two_mul_toInt
  have hxhi := x.two_mul_toInt_lt
  have hmlo := m.le_two_mul_toInt
  have hmhi := m.two_mul_toInt_lt
  have hsign := msb_ofInt (i := x.toInt - m.toInt) hw (by omega) (by omega)
  refine ⟨hc, ?equal, ?less⟩
  case equal => rw [hz, hr, decide_eq_decide, sub_eq_zero]
  case less =>
    rw [ofInt_toInt_sub_toInt, ← hr, BitVec.msb_eq_toInt, ← hn, ← hv] at hsign
    rw [hsign, Bool.xor_assoc, Bool.xor_self, Bool.xor_false, decide_eq_decide]
    omega

end

theorem DifferenceOf.compared {x m r old cc : Byte} {h : Bool} (hdiff : DifferenceOf x m false h r old cc) :
    Compared x m cc := by
  obtain ⟨hr, -, -, -, -, hn, hz, hv, hc⟩ := hdiff
  rw [Bool.toNat_false, Int.natCast_zero, Int.sub_zero] at hr hv
  exact compared_of_difference (by decide) (eq_sub_of_toNat hr) hn hz (hv.trans (overflows8_eq _)) hc

theorem DifferenceOf16.compared {x m r : Word} {old cc : Byte} (hdiff : DifferenceOf16 x m r old cc) :
    Compared x m cc := by
  obtain ⟨hr, -, -, -, -, hn, hz, hv, hc⟩ := hdiff
  exact compared_of_difference (by decide) (eq_sub_of_toNat hr) hn hz (hv.trans (overflows16_eq _)) hc

/-- The short branches named after a comparison, and whether the comparison of `x` with `m` is as the name says. -/
def comparisonBranches {w : Nat} (o : Byte) (x m : BitVec w) : List (Instr × Bool) :=
  [(.bhi o, decide (m.toNat < x.toNat)), (.bhs o, decide (m.toNat ≤ x.toNat)),
    (.blo o, decide (x.toNat < m.toNat)), (.bls o, decide (x.toNat ≤ m.toNat)),
    (.bgt o, decide (m.toInt < x.toInt)), (.bge o, decide (m.toInt ≤ x.toInt)),
    (.blt o, decide (x.toInt < m.toInt)), (.ble o, decide (x.toInt ≤ m.toInt)),
    (.beq o, decide (x = m)), (.bne o, decide (x ≠ m))]

/-- After a comparison each of these branches is taken exactly if its name says so (R250, D20). -/
theorem Compared.branches {w : Nat} {x m : BitVec w} {t : State} (h : Compared x m t.cc) (o : Byte) :
    ∀ p ∈ comparisonBranches o x m,
      exec p.1 t = .next { t with pc := if p.2 then BitVec.ofInt 16 (t.pc.toNat + o.toInt) else t.pc } := by
  obtain ⟨hbelow, hequal, hless⟩ := h
  have hunsigned : x = m ↔ x.toNat = m.toNat := BitVec.toNat_inj.symm
  have hsigned : x = m ↔ x.toInt = m.toInt := BitVec.toInt_inj.symm
  simp only [comparisonBranches, List.forall_mem_cons, List.not_mem_nil, false_implies, implies_true, and_true]
  refine ⟨exec_shortBranch .hi rfl ?hi, exec_shortBranch .cc rfl ?hs, exec_shortBranch .cs rfl hbelow,
    exec_shortBranch .ls rfl ?ls, exec_shortBranch .gt rfl ?gt, exec_shortBranch .ge rfl ?ge,
    exec_shortBranch .lt rfl hless, exec_shortBranch .le rfl ?le, exec_shortBranch .eq rfl hequal,
    exec_shortBranch .ne rfl ?ne⟩
  case ne => rw [Cond.holds, hequal, decide_not]
  case hi | hs | ls =>
    simp only [Cond.holds, hbelow, hequal, hunsigned, ← Bool.decide_or, ← decide_not, decide_eq_decide]
    omega
  case gt | ge | le =>
    simp only [Cond.holds, hless, hequal, hsigned, ← Bool.decide_or, ← decide_not, decide_eq_decide]
    omega

/-- Settles O50: a comparison leaves the flags of the order, which the conditions read. -/
theorem comparisonThenBranch : Obligations.ComparisonThenBranch := by
  refine ⟨fun src s u m o h => ?cmpa, fun src s u m o h => ?cmpx⟩
  case cmpa =>
    obtain ⟨⟨_, _, hexec, hdiff⟩, -⟩ := compareAccumulator src s u m h
    exact ⟨_, hexec, hdiff.compared.branches o⟩
  case cmpx =>
    obtain ⟨-, -, -, ⟨_, _, hexec, hdiff⟩, -⟩ := compareWordRegister src s u m h
    exact ⟨_, hexec, hdiff.compared.branches o⟩

end Sys2Proof.Machine
end

section
/-! PROOFS. Taking an exception and returning from it (spec/60_exceptions.md R301, R305 to R311): what an entry stacks and
leaves in CC and PC, the software interrupts, and the RTI that undoes one. -/

namespace Sys2Proof.Machine

/-! ### The bits of CC that an entry writes -/

theorem CC.put_e_true (cc : Byte) : CC.put cc .e true = cc ||| 0x80 := rfl

theorem MaskUpdate.setI_apply (cc : Byte) : MaskUpdate.setI.apply cc = cc ||| 0x10 := rfl

theorem MaskUpdate.setIF_apply (cc : Byte) : MaskUpdate.setIF.apply cc = cc ||| 0x50 :=
  BitVec.or_assoc cc 0x10 0x40

/-- CC after the entry of SWI or NMI (R301, R309). -/
theorem setIF_apply_entire (cc : Byte) : MaskUpdate.setIF.apply (CC.put cc .e true) = cc ||| 0xD0 := by
  rw [MaskUpdate.setIF_apply, CC.put_e_true]
  exact BitVec.or_assoc cc 0x80 0x50

/-- CC after the entry of an FIRQ (R308). -/
theorem setIF_apply_short (cc : Byte) : MaskUpdate.setIF.apply (CC.put cc .e false) = cc &&& 0x7F ||| 0x50 :=
  MaskUpdate.setIF_apply (cc &&& 0x7F)

/-- CC after the entry of an IRQ (R307). -/
theorem setI_apply_entire (cc : Byte) : MaskUpdate.setI.apply (CC.put cc .e true) = cc ||| 0x90 :=
  BitVec.or_assoc cc 0x80 0x10

/-! ### The frames -/

/-- CC as an entry stacks it: E says which frame it is (R306). -/
def Frame.cc : Frame → Byte → Byte
  | .entire, cc => CC.put cc .e true
  | .short, cc => CC.put cc .e false
  | .stacked, cc => cc

/-- The bytes that an entry stacks (R306, R312). -/
def Frame.bytes (f : Frame) (s : State) : List Byte :=
  match f with
  | .entire => entireFrame (f.cc s.cc) s
  | .short => shortFrame (f.cc s.cc) s
  | .stacked => []

/-- The stacking of a frame completes where every address reads and writes. -/
theorem pushFrame_completes (f : Frame) {s : State} (h : s.NoHoles) :
    ∃ t, Bus.plain.pushFrame f s = .ok t ∧
      t = { s with cc := f.cc s.cc, s := s.s - BitVec.ofNat 16 (f.bytes s).length, mem := t.mem } ∧
      Stored (s.s - BitVec.ofNat 16 (f.bytes s).length) (f.bytes s) s t := by
  cases f with
  | entire => exact pushFrame_entire_completes h
  | short =>
    have hroom : State.NoHoles { s with cc := CC.put s.cc .e false } := h.congr rfl
    obtain ⟨w, hw⟩ := push16_usable (r := .s) (hroom (s.s - 1)) (hroom (s.s - 2)) s.pc
    obtain ⟨t, ht⟩ := (push16_pushed hw).push8_room (hroom.roomBelow .s) (by simp [wordBytes]) (CC.put s.cc .e false)
    have hframe := pushShortState_ok.2 ⟨w, hw, ht⟩
    have hp := pushShortState_pushed hframe
    exact ⟨t, hframe, hp.state, hp.stored.congr rfl rfl rfl rfl⟩
  | stacked =>
    have hs : s.s - BitVec.ofNat 16 0 = s.s := BitVec.sub_zero s.s
    exact ⟨s, rfl, by rw [Frame.bytes, List.length_nil, hs, Frame.cc], .nil fun _ => rfl⟩

theorem readWord_usable {s : State} {a : Word} (h : s.Usable a) (h' : s.Usable (a + 1)) :
    ∃ v, readWord s a = .ok v := by
  obtain ⟨hi, hhi⟩ := readByte_usable h
  obtain ⟨lo, hlo⟩ := readByte_usable h'
  exact ⟨_, readWord_of_bytes hhi hlo⟩

/-- An entry completes where every address reads and writes: the frame on the stack, then the masks, then PC from the
vector (R305 to R310). -/
theorem enterException_completes (f : Frame) (m : MaskUpdate) (ev : Event) {s : State} (h : s.NoHoles) :
    ∃ t, Bus.plain.enterException f m ev s = .ok t ∧ Entered (f.bytes s) (m.apply (f.cc s.cc)) ev.vector s t := by
  obtain ⟨w, hw, hstate, hstored⟩ := pushFrame_completes f h
  have hroom : w.NoHoles := h.congr (by rw [hstate])
  obtain ⟨target, htarget⟩ := readWord_usable (hroom ev.vector) (hroom (ev.vector + 1))
  refine ⟨_, enterException_ok.2 ⟨w, target, hw, htarget, rfl⟩, ?_, hstored.congr rfl rfl rfl rfl, htarget⟩
  rw [hstate]

/-! ### The software interrupts -/

/-- Settles O52: the entry of each, with E set in the CC stacked and the masks set after it. -/
theorem softwareInterrupts : Obligations.SoftwareInterrupts := by
  refine ⟨⟨rfl, rfl, rfl⟩, fun s h => ⟨?swi, ?swi2, ?swi3⟩⟩
  case swi =>
    obtain ⟨t, ht, hentered⟩ := enterException_completes .entire .setIF .swi h
    exact ⟨t, finish_next.2 ht, setIF_apply_entire s.cc ▸ hentered⟩
  case swi2 =>
    obtain ⟨t, ht, hentered⟩ := enterException_completes .entire .keep .swi2 h
    exact ⟨t, finish_next.2 ht, hentered⟩
  case swi3 =>
    obtain ⟨t, ht, hentered⟩ := enterException_completes .entire .keep .swi3 h
    exact ⟨t, finish_next.2 ht, hentered⟩

/-! ### RTI after an entry -/

/-- RTI after an entry that stacked the entire state in ram gives every register back, CC as it was stacked. -/
theorem returnFromException_of_entered {s t : State} {cc cc' : Byte} {v : Word}
    (h : Entered (entireFrame cc s) cc' v s t) (he : CC.get cc .e = true)
    (hram : ∀ k : Nat, k < 12 → s.region (s.s - BitVec.ofNat 16 (k + 1)) = .ram) :
    Bus.plain.returnFromException t = .ok { s with cc := cc, mem := t.mem } := by
  obtain ⟨hstate, hstored, -⟩ := h
  have hsp : t.s = s.s - 12 := by
    rw [hstate]
    rfl
  have hfetch : Fetches (bytesUpFrom t t.s) 0 (frameBytes .s RegList.all { s with cc := cc }) := by
    rw [hsp]
    refine hstored.fetches fun k hk => ?_
    have hk' : k < 12 := hk
    rw [sub_ofNat_add_ofNat s.s hk]
    exact hram (12 - k - 1) (by omega)
  have hcc : readByte t t.s = .ok cc := (congrArg (readByte t) (BitVec.add_zero t.s)).symm.trans hfetch.1
  have hpull : Bus.plain.pullList .s RegList.all t = .ok { s with cc := cc, mem := t.mem } := by
    refine (pullList_takes (p := t) hfetch).trans (congrArg _ ?_)
    have hback : t.s + BitVec.ofNat 16 Frame.entire.size = s.s := by
      rw [hsp]
      exact BitVec.sub_add_cancel s.s 12
    rw [frameBytes_all_length, hback, hstate]
    simp [takeNamed, takeOtherSp, RegList.all, State.setSp]
  rw [returnFromException_eq_pullList hcc, he]
  exact hpull

/-- Settles O54: each of the three stacks the entire state with E set, which RTI pulls. -/
theorem rtiUndoesSoftwareInterrupts : Obligations.RtiUndoesSoftwareInterrupts := by
  simp only [Obligations.RtiUndoesSoftwareInterrupts, List.forall_mem_cons, List.not_mem_nil, false_implies,
    implies_true, and_true]
  intro s h hram
  have he : CC.get (s.cc ||| 0x80) .e = true := by rw [← CC.put_e_true, CC.get_put, if_pos rfl]
  obtain ⟨⟨t, hswi, hentered⟩, ⟨t₂, hswi2, hentered₂⟩, ⟨t₃, hswi3, hentered₃⟩⟩ := softwareInterrupts.2 s h
  exact ⟨⟨t, hswi, finish_next.2 (returnFromException_of_entered hentered he hram)⟩,
    ⟨t₂, hswi2, finish_next.2 (returnFromException_of_entered hentered₂ he hram)⟩,
    ⟨t₃, hswi3, finish_next.2 (returnFromException_of_entered hentered₃ he hram)⟩⟩

end Sys2Proof.Machine
end

section
/-! PROOFS. Without holes every instruction completes (spec/60_exceptions.md R300): an operand, a push and a pull complete
where every address reads and writes, and with them each shared operation. -/

namespace Sys2Proof.Machine

/-! ### Operands -/

theorem indexedEA_completes (m : Indexed) {s : State} (h : s.NoHoles) :
    ∃ a u, indexedEA m s = .ok (a, u) ∧ u.NoHoles := by
  have hbase : (indexedBase m s).2.NoHoles := h.congr (indexedBase_touches m s).platform
  cases hind : indirect m with
  | false => exact ⟨_, _, indexedEA_ok.2 ⟨rfl, by rw [hind]; rfl⟩, hbase⟩
  | true =>
    obtain ⟨a, ha⟩ := readWord_usable (hbase (indexedBase m s).1) (hbase _)
    exact ⟨a, _, indexedEA_ok.2 ⟨rfl, by rw [hind]; exact ha⟩, hbase⟩

theorem effectiveAddress_completes (m : MemOperand) {s : State} (h : s.NoHoles) :
    ∃ a u, effectiveAddress m s = .ok (a, u) ∧ u.NoHoles := by
  cases m with
  | direct | extended => exact ⟨_, s, rfl, h⟩
  | indexed m => exact indexedEA_completes m h

theorem operand8_completes (src : Src8) {s : State} (h : s.NoHoles) : ∃ v u, operand8 src s = .ok (v, u) := by
  cases src with
  | imm v => exact ⟨v, s, rfl⟩
  | mem m =>
    obtain ⟨a, u, ha, hu⟩ := effectiveAddress_completes m h
    obtain ⟨v, hv⟩ := readByte_usable (hu a)
    exact ⟨v, u, operand8_mem_ok.2 ⟨a, ha, hv⟩⟩

theorem operand16_completes (src : Src16) {s : State} (h : s.NoHoles) : ∃ v u, operand16 src s = .ok (v, u) := by
  cases src with
  | imm v => exact ⟨v, s, rfl⟩
  | mem m =>
    obtain ⟨a, u, ha, hu⟩ := effectiveAddress_completes m h
    obtain ⟨v, hv⟩ := readWord_usable (hu a) (hu (a + 1))
    exact ⟨v, u, operand16_mem_ok.2 ⟨a, ha, hv⟩⟩

/-- An operand in memory has an address, and there a byte reads. -/
theorem memOperand_reads (m : MemOperand) {s : State} (h : s.NoHoles) :
    ∃ a u v, effectiveAddress m s = .ok (a, u) ∧ readByte u a = .ok v := by
  obtain ⟨v, u, hv⟩ := operand8_completes (.mem m) h
  obtain ⟨a, ha, hread⟩ := operand8_mem_ok.1 hv
  exact ⟨a, u, v, ha, hread⟩

/-! ### Register pairs and RTS -/

theorem transfer_completes {r1 r2 : Reg} (h : r1.sameWidth r2 = true) (s : State) : ∃ t, transfer r1 r2 s = .ok t := by
  match r1, r2 with
  | .r8 p, .r8 q | .r16 p, .r16 q => exact ⟨_, rfl⟩
  | .r8 p, .r16 q | .r16 p, .r8 q => cases h

theorem exchange_completes {r1 r2 : Reg} (h : r1.sameWidth r2 = true) (s : State) : ∃ t, exchange r1 r2 s = .ok t := by
  match r1, r2 with
  | .r8 p, .r8 q | .r16 p, .r16 q => exact ⟨_, rfl⟩
  | .r8 p, .r16 q | .r16 p, .r8 q => cases h

theorem returnFromSubroutine_completes {s : State} (h : s.NoHoles) : ∃ t, Bus.plain.returnFromSubroutine s = .ok t := by
  obtain ⟨v, hv⟩ := readWord_usable (h s.s) (h (s.s + 1))
  exact ⟨_, returnFromSubroutine_ok.2 ⟨v, _, pull16_ok.2 ⟨hv, rfl⟩, rfl⟩⟩

/-! ### The instructions -/

/-- Each instruction completes: the arms follow the shared operation that gives the meaning, first those that reach memory
through an operand, then those that reach a stack, then those that make no access. -/
theorem exec_completes {i : Instr} {s : State} (hwf : i.WellFormed) (h : s.NoHoles) : ∃ t, exec i s = .next t := by
  cases i with
  | adca src | adcb src | adda src | addb src =>
    obtain ⟨v, u, hu⟩ := operand8_completes src h
    exact ⟨_, finish_next.2 (addToAcc_ok.2 ⟨v, u, hu, rfl⟩)⟩
  | sbca src | sbcb src | suba src | subb src =>
    obtain ⟨v, u, hu⟩ := operand8_completes src h
    exact ⟨_, finish_next.2 (subFromAcc_ok.2 ⟨v, u, hu, rfl⟩)⟩
  | cmpa src | cmpb src =>
    obtain ⟨v, u, hu⟩ := operand8_completes src h
    exact ⟨_, finish_next.2 (compareAcc_ok.2 ⟨v, u, hu, rfl⟩)⟩
  | anda src | andb src | eora src | eorb src | ora src | orb src =>
    obtain ⟨v, u, hu⟩ := operand8_completes src h
    exact ⟨_, finish_next.2 (logicToAcc_ok.2 ⟨v, u, hu, rfl⟩)⟩
  | bita src | bitb src =>
    obtain ⟨v, u, hu⟩ := operand8_completes src h
    exact ⟨_, finish_next.2 (bitTestAcc_ok.2 ⟨v, u, hu, rfl⟩)⟩
  | lda src | ldb src =>
    obtain ⟨v, u, hu⟩ := operand8_completes src h
    exact ⟨_, finish_next.2 (loadAcc_ok.2 ⟨v, u, hu, rfl⟩)⟩
  | addd src | subd src =>
    obtain ⟨v, u, hu⟩ := operand16_completes src h
    exact ⟨_, finish_next.2 (arithD_ok.2 ⟨v, u, hu, rfl⟩)⟩
  | cmpd src | cmps src | cmpu src | cmpx src | cmpy src =>
    obtain ⟨v, u, hu⟩ := operand16_completes src h
    exact ⟨_, finish_next.2 (compare16_ok.2 ⟨v, u, hu, rfl⟩)⟩
  | ldd src | lds src | ldu src | ldx src | ldy src =>
    obtain ⟨v, u, hu⟩ := operand16_completes src h
    exact ⟨_, finish_next.2 (loadReg16_ok.2 ⟨v, u, hu, rfl⟩)⟩
  | leas m | leau m =>
    obtain ⟨a, u, ha, -⟩ := indexedEA_completes m h
    exact ⟨_, finish_next.2 (loadAddress_ok.2 ⟨a, u, ha, rfl⟩)⟩
  | leax m | leay m =>
    obtain ⟨a, u, ha, -⟩ := indexedEA_completes m h
    exact ⟨_, finish_next.2 (loadAddressZ_ok.2 ⟨a, u, ha, rfl⟩)⟩
  | sta m | stb m =>
    obtain ⟨a, u, ha, hu⟩ := effectiveAddress_completes m h
    exact (storeAcc_completes _ ha (hu a)).imp fun _ ht => finish_next.2 ht.1
  | std m | sts m | stu m | stx m | sty m =>
    obtain ⟨a, u, ha, hu⟩ := effectiveAddress_completes m h
    exact (storeReg16_completes _ ha (hu a) (hu (a + 1))).imp fun _ ht => finish_next.2 ht.1
  | asl m | lsl m | asr m | neg m =>
    obtain ⟨a, u, v, ha, hv⟩ := memOperand_reads m h
    exact (modifyMemDrawing_completes _ ha hv).imp fun _ ht => finish_next.2 ht.1
  | lsr m | rol m | ror m | com m | inc m | dec m =>
    obtain ⟨a, u, v, ha, hv⟩ := memOperand_reads m h
    exact (modifyMem_completes _ ha hv).imp fun _ ht => finish_next.2 ht.1
  | clr m =>
    obtain ⟨a, u, ha, hu⟩ := effectiveAddress_completes m h
    exact (clearMem_completes ha (hu a)).imp fun _ ht => finish_next.2 ht.1
  | tst m =>
    obtain ⟨a, u, v, ha, hv⟩ := memOperand_reads m h
    exact ⟨_, finish_next.2 (testMem_ok.2 ⟨a, u, v, ha, hv, rfl⟩)⟩
  | jmp m =>
    obtain ⟨a, u, ha, -⟩ := effectiveAddress_completes m h
    exact ⟨_, finish_next.2 (jump_ok.2 ⟨a, u, ha, rfl⟩)⟩
  | jsr m =>
    obtain ⟨a, u, ha, hu⟩ := effectiveAddress_completes m h
    obtain ⟨t, ht, -⟩ := call_completes a (hu (u.s - 1)) (hu (u.s - 2))
    exact ⟨t, finish_next.2 (jumpToSubroutine_ok.2 ⟨a, u, ha, ht⟩)⟩
  | bsr | lbsr => exact (call_completes _ (h (s.s - 1)) (h (s.s - 2))).imp fun _ ht => finish_next.2 ht.1
  | pshs | pshu => exact (pushList_completes _ _ h).imp fun _ ht => finish_next.2 ht.1
  | puls | pulu => exact (pullList_completes _ _ h).imp fun _ ht => finish_next.2 ht.1
  | rts => exact (returnFromSubroutine_completes h).imp fun _ ht => finish_next.2 ht
  | rti =>
    obtain ⟨cc, hcc⟩ := readByte_usable (h s.s)
    exact (returnFromException_completes h hcc rfl).imp fun _ ht => finish_next.2 ht.1
  | swi | swi2 | swi3 => exact (enterException_completes _ _ _ h).imp fun _ ht => finish_next.2 ht.1
  | cwai m =>
    obtain ⟨t, ht, -⟩ := (cwaiAndSync s m).1 h
    exact ⟨t, ht⟩
  | tfr => exact (transfer_completes hwf s).imp fun _ ht => finish_next.2 ht
  | exg => exact (exchange_completes hwf s).imp fun _ ht => finish_next.2 ht
  | asla | lsla | asra | nega | aslb | lslb | asrb | negb | lsra | rola | rora | coma | inca | deca | daa | lsrb | rolb
  | rorb | comb | incb | decb | clra | clrb | sex | mul | abx | andcc | orcc | tsta | tstb | sync | nop => exact ⟨_, rfl⟩
  | bcc | lbcc | bcs | lbcs | beq | lbeq | bge | lbge | bgt | lbgt | bhi | lbhi | bhs | lbhs | ble | lble | blo | lblo
  | bls | lbls | blt | lblt | bmi | lbmi | bne | lbne | bpl | lbpl | bra | lbra | brn | lbrn | bvc | lbvc | bvs | lbvs =>
    exact ⟨_, rfl⟩

/-- Settles O12: each instruction completes, and none changes the platform. -/
theorem noInstructionStopsWithoutHoles : Obligations.NoInstructionStopsWithoutHoles := by
  intro i s hwf h
  obtain ⟨t, ht⟩ := exec_completes hwf h
  exact ⟨t, ht, h.congr (exec_touches i s t ht).platform⟩

end Sys2Proof.Machine
end

section
/-! PROOFS. The sampling point and the step (spec/60_exceptions.md R302 to R314): which interrupt is accepted, what its
entry does to a running and to a waiting machine, what happens when none is accepted, and what every step keeps. -/

namespace Sys2Proof.Machine

/-! ### Which interrupt is accepted -/

/-- The interrupt that is accepted at a sampling point: NMI over FIRQ over IRQ (R304). -/
def State.accepted (s : State) : Option Interrupt :=
  if s.latch.nmiPending then some .nmi
  else if s.sample.firqLevel = true ∧ CC.get s.cc .f = false then some .firq
  else if s.sample.irqLevel = true ∧ CC.get s.cc .i = false then some .irq
  else none

section
variable {s : State}

theorem latch_nmiPending_iff :
    s.latch.nmiPending = true ↔ s.nmiPending = true ∨ (s.sample.nmiEdge = true ∧ s.nmiArmed = true) := by
  rw [State.latch_nmiPending, Bool.or_eq_true, Bool.and_eq_true]

/-- Where no NMI edge arrives armed, the latch consumes the sample alone (R309). -/
theorem latch_of_no_edge (hedge : ¬(s.sample.nmiEdge = true ∧ s.nmiArmed = true)) :
    s.latch = { s with irqIn := s.irqIn.tail } := by
  rw [← Bool.and_eq_true] at hedge
  rw [State.latch, Bool.eq_false_iff.2 hedge, Bool.or_false]

theorem accepted_nmi (h : s.nmiPending = true ∨ (s.sample.nmiEdge = true ∧ s.nmiArmed = true)) :
    s.accepted = some .nmi :=
  if_pos (latch_nmiPending_iff.2 h)

section
variable (hpending : s.nmiPending = false) (hedge : ¬(s.sample.nmiEdge = true ∧ s.nmiArmed = true))
include hpending hedge

theorem accepted_of_no_nmi : s.accepted =
    if s.sample.firqLevel = true ∧ CC.get s.cc .f = false then some .firq
    else if s.sample.irqLevel = true ∧ CC.get s.cc .i = false then some .irq
    else none := by
  have hlatch : s.latch.nmiPending = false := by rw [latch_of_no_edge hedge, hpending]
  rw [State.accepted, hlatch]
  rfl

theorem accepted_firq (hlevel : s.sample.firqLevel = true) (hmask : CC.get s.cc .f = false) :
    s.accepted = some .firq := by
  rw [accepted_of_no_nmi hpending hedge, if_pos ⟨hlevel, hmask⟩]

theorem accepted_irq (hfirq : ¬(s.sample.firqLevel = true ∧ CC.get s.cc .f = false)) (hlevel : s.sample.irqLevel = true)
    (hmask : CC.get s.cc .i = false) : s.accepted = some .irq := by
  rw [accepted_of_no_nmi hpending hedge, if_neg hfirq, if_pos ⟨hlevel, hmask⟩]

end

/-! ### What a sampling point decides -/

theorem poll_of_accepted {k : Interrupt} (hk : s.accepted = some k) : ∃ u, poll s = .take k u := by
  obtain ⟨u, hu, hpoll⟩ := poll_state s
  have hcc : u.cc = s.cc := by obtain ⟨rfl, -⟩ | ⟨rfl, -⟩ := hu <;> rfl
  have hpending : u.nmiPending = s.latch.nmiPending := by obtain ⟨rfl, -⟩ | ⟨rfl, -⟩ := hu <;> rfl
  rw [hcc, hpending] at hpoll
  rw [hpoll]
  refine ⟨u, ?_⟩
  unfold State.accepted at hk
  split at hk
  next hnmi =>
    obtain rfl := Option.some.inj hk
    rw [if_neg fun hwait => hwait.2 (.inl hnmi), if_pos hnmi]
  next hnmi =>
    split at hk
    next hfirq =>
      obtain rfl := Option.some.inj hk
      rw [if_neg fun hwait => hwait.2 (.inr (.inl hfirq.1)), if_neg hnmi, if_pos hfirq]
    next hfirq =>
      split at hk
      next hirq =>
        obtain rfl := Option.some.inj hk
        rw [if_neg fun hwait => hwait.2 (.inr (.inr hirq.1)), if_neg hnmi, if_neg hfirq, if_pos hirq]
      next => cases hk

/-- With no interrupt accepted CWAI waits on, and a running machine executes (R304, R312). -/
theorem poll_of_quiet (h : s.Quiet) (hsync : s.runState ≠ .syncWait) :
    poll s = if s.runState = .cwaiWait then .wait { s with irqIn := s.irqIn.tail }
      else .execute { s with irqIn := s.irqIn.tail } := by
  obtain ⟨hpending, hedge, hfirq, hirq⟩ := h
  have hlatch := latch_of_no_edge hedge
  obtain ⟨u, ⟨rfl, -⟩ | ⟨-, hwait⟩, hpoll⟩ := poll_state s
  · have hnmi : ¬s.latch.nmiPending = true := by rw [hlatch, hpending]; decide
    rw [hpoll, if_neg fun hwait => hsync hwait.1, if_neg hnmi, State.latch_cc, if_neg hfirq, if_neg hirq, hlatch]
  · exact absurd hwait hsync

/-- With no request SYNC waits on (R313). -/
theorem poll_sync_silent (hsync : s.runState = .syncWait) (hpending : s.nmiPending = false)
    (hedge : ¬(s.sample.nmiEdge = true ∧ s.nmiArmed = true)) (hfirq : s.sample.firqLevel = false)
    (hirq : s.sample.irqLevel = false) : poll s = .wait { s with irqIn := s.irqIn.tail } := by
  obtain ⟨u, -, hpoll⟩ := poll_state s
  rw [hpoll, latch_of_no_edge hedge, hpending, hfirq, hirq]
  exact if_pos ⟨hsync, by simp⟩

/-- A request ends the wait after SYNC before anything is decided (R313). -/
theorem poll_sync_requested (hsync : s.runState = .syncWait)
    (hrequest : s.latch.nmiPending = true ∨ s.sample.firqLevel = true ∨ s.sample.irqLevel = true) :
    poll s = poll { s with runState := .running } := by
  obtain ⟨u, ⟨-, hnot⟩ | ⟨rfl, -⟩, hpoll⟩ := poll_state s
  · exact absurd hsync hnot
  obtain ⟨w, ⟨rfl, -⟩ | ⟨-, hwait⟩, hpoll'⟩ := poll_state { s with runState := .running }
  · have hawake : ¬(State.latch { s with runState := .running }).runState = .syncWait := nofun
    exact (hpoll.trans (if_neg fun hwait => hwait.2 hrequest)).trans
      (hpoll'.trans (if_neg fun hwait => hawake hwait.1)).symm
  · cases hwait

theorem step_of_wait {t : State} (h : poll s = .wait t) : step s = .next t := by
  rw [step, h]

theorem step_of_take {u : State} {k : Interrupt} (h : poll s = .take k u) :
    step s = finish (Bus.plain.takeInterrupt k u) := by
  rw [step, h]

theorem step_of_execute {u w : State} {i : Instr} (h : poll s = .execute u) (hfetch : fetchInstr u = .ok (i, w)) :
    step s = exec i w := by
  rw [step, h]
  simp only [hfetch]

end

/-! ### One instruction -/

/-- Settles O8: the sampling point only consumes its sample, and the fetch reads what the decoder reads. -/
theorem stepRunsTheDecodedInstruction : Obligations.StepRunsTheDecodedInstruction := by
  intro s bs i n hrun hquiet hbytes hdecode
  obtain ⟨ops, rest, hspelled, rfl, rfl⟩ := decode_ok.1 hdecode
  have hpoll : poll s = .execute { s with irqIn := s.irqIn.tail } := by
    rw [poll_of_quiet hquiet (by rw [hrun]; decide), if_neg (by rw [hrun]; decide)]
  have hfetch : Fetches (fun k => readByte s (s.pc + BitVec.ofNat 16 k)) 0 (ops ++ rest) :=
    fetches_of_getElem fun k b hb => by rw [Nat.zero_add]; exact hbytes k b hb
  exact ⟨hspelled.isEncoding.1, step_of_execute hpoll
    (fetchInstr_ok.2 ⟨_, decodeFrom_ok.2 ⟨ops, hspelled, (fetches_append.1 hfetch).1, rfl⟩, rfl⟩)⟩

/-! ### The entry of an interrupt -/

/-- What the entry of an interrupt stacks, unless CWAI has stacked (R307 to R309). -/
def Interrupt.frame : Interrupt → Frame
  | .nmi => .entire
  | .firq => .short
  | .irq => .entire

/-- The masks that the entry of an interrupt sets (R303, R307 to R309). -/
def Interrupt.masks : Interrupt → MaskUpdate
  | .nmi => .setIF
  | .firq => .setIF
  | .irq => .setI

/-- The event whose vector an interrupt takes (R305). -/
def Interrupt.event : Interrupt → Event
  | .nmi => .nmi
  | .firq => .firq
  | .irq => .irq

/-- The state in which an accepted interrupt is entered: awake, the sample consumed, no NMI left pending (R304, R309). -/
def State.entering (s : State) : State :=
  { s with runState := .running, nmiPending := false, irqIn := s.irqIn.tail }

section
variable {s : State} {k : Interrupt}

theorem entering_of_no_nmi (hpending : s.nmiPending = false) :
    s.entering = { s with runState := .running, irqIn := s.irqIn.tail } := by
  rw [State.entering, ← hpending]

theorem takeInterrupt_eq (h : k = .nmi ∨ s.nmiPending = false) : Bus.plain.takeInterrupt k s =
    Bus.plain.enterException (s.entryFrame k.frame) k.masks k.event
      { s with runState := .running, nmiPending := false } := by
  cases k with
  | nmi => rfl
  | firq | irq =>
    have hpending : s.nmiPending = false := h.resolve_left nofun
    rw [← hpending]
    rfl

/-- An accepted interrupt is entered, whatever the machine waits for. -/
theorem step_of_accepted (hk : s.accepted = some k) :
    step s = finish (Bus.plain.enterException (s.entryFrame k.frame) k.masks k.event s.entering) := by
  obtain ⟨u, hpoll⟩ := poll_of_accepted hk
  obtain ⟨hu, hpending⟩ := poll_take hpoll
  have hentry : k = .nmi ∨ u.nmiPending = false := by
    obtain ⟨-, hk⟩ | ⟨hn, -⟩ | ⟨hn, -⟩ := hpending
    · exact .inl hk
    · exact .inr hn
    · exact .inr hn
  rw [step_of_take hpoll, takeInterrupt_eq hentry]
  obtain ⟨rfl, -⟩ | ⟨rfl, hsync⟩ := hu
  · rfl
  · rw [State.entryFrame, State.entryFrame, hsync]
    rfl

/-- Outside the wait of CWAI the frame is stacked, CC with its E, before the masks and the vector (R307 to R309). -/
theorem step_enters (h : s.NoHoles) (hcwai : s.runState ≠ .cwaiWait) (hk : s.accepted = some k) :
    ∃ t, step s = .next t ∧
      Entered (k.frame.bytes s) (k.masks.apply (k.frame.cc s.cc)) k.event.vector s.entering t := by
  have hframe : s.entryFrame k.frame = k.frame := by
    unfold State.entryFrame
    split
    next => rfl
    next => rfl
    next hwait => exact absurd hwait hcwai
  have hroom : s.entering.NoHoles := h.congr rfl
  obtain ⟨t, ht, hentered⟩ := enterException_completes k.frame k.masks k.event hroom
  refine ⟨t, ?_, ?_⟩
  · rw [step_of_accepted hk, hframe]
    exact finish_next.2 ht
  · cases k <;> exact hentered

/-- In the wait of CWAI nothing is stacked again: the masks and the vector alone (R312). -/
theorem step_wakes (h : s.NoHoles) (hcwai : s.runState = .cwaiWait) (hk : s.accepted = some k) :
    ∃ t, step s = .next t ∧ readWord s k.event.vector = .ok t.pc ∧
      t = { s.entering with cc := k.masks.apply s.cc, pc := t.pc } := by
  obtain ⟨target, htarget⟩ := readWord_usable (h k.event.vector) (h (k.event.vector + 1))
  have hframe : s.entryFrame k.frame = .stacked := by rw [State.entryFrame, hcwai]
  refine ⟨{ s.entering with cc := k.masks.apply s.cc, pc := target }, ?_, htarget, rfl⟩
  rw [step_of_accepted hk, hframe]
  exact finish_next.2 (enterException_ok.2 ⟨s.entering, target, rfl, htarget, rfl⟩)

end

/-- Settles O56: the NMI is the interrupt accepted. -/
theorem nmiEntry : Obligations.NmiEntry := by
  intro s h hcwai hnmi
  obtain ⟨t, ht, hentered⟩ := step_enters h hcwai (accepted_nmi hnmi)
  exact ⟨t, ht, setIF_apply_entire s.cc ▸ hentered⟩

/-- Settles O57: without an NMI the unmasked FIRQ is the interrupt accepted. -/
theorem firqEntry : Obligations.FirqEntry := by
  intro s h hcwai hpending hedge hlevel hmask
  obtain ⟨t, ht, hentered⟩ := step_enters h hcwai (accepted_firq hpending hedge hlevel hmask)
  rw [entering_of_no_nmi hpending] at hentered
  exact ⟨t, ht, setIF_apply_short s.cc ▸ hentered⟩

/-- Settles O58: without an NMI and an unmasked FIRQ the unmasked IRQ is the interrupt accepted. -/
theorem irqEntry : Obligations.IrqEntry := by
  intro s h hcwai hpending hedge hfirq hlevel hmask
  obtain ⟨t, ht, hentered⟩ := step_enters h hcwai (accepted_irq hpending hedge hfirq hlevel hmask)
  rw [entering_of_no_nmi hpending] at hentered
  exact ⟨t, ht, setI_apply_entire s.cc ▸ hentered⟩

/-! ### The waits -/

/-- Settles O59: CWAI waits while no interrupt is accepted and wakes by the masks and the vector; SYNC waits while there is
no request. -/
theorem waitingAndWaking : Obligations.WaitingAndWaking := by
  intro s
  refine ⟨fun hcwai hquiet => ?cwaiWaits, fun hcwai h hpending hedge => ⟨fun hlevel hmask => ?firq,
    fun hfirq hlevel hmask => ?irq⟩, fun hcwai h hnmi => ?nmi, fun hsync hpending hedge hfirq hirq => ?syncWaits,
    fun hsync hrequest => ?syncWakes⟩
  case cwaiWaits =>
    refine step_of_wait ?_
    rw [poll_of_quiet hquiet (by rw [hcwai]; decide), if_pos hcwai]
  case firq =>
    have hwakes := step_wakes h hcwai (accepted_firq hpending hedge hlevel hmask)
    rw [entering_of_no_nmi hpending] at hwakes
    exact MaskUpdate.setIF_apply s.cc ▸ hwakes
  case irq =>
    have hwakes := step_wakes h hcwai (accepted_irq hpending hedge hfirq hlevel hmask)
    rw [entering_of_no_nmi hpending] at hwakes
    exact MaskUpdate.setI_apply s.cc ▸ hwakes
  case nmi => exact MaskUpdate.setIF_apply s.cc ▸ step_wakes h hcwai (accepted_nmi hnmi)
  case syncWaits => exact step_of_wait (poll_sync_silent hsync hpending hedge hfirq hirq)
  case syncWakes =>
    rw [← or_assoc, ← latch_nmiPending_iff] at hrequest
    rw [step, step, poll_sync_requested hsync hrequest]

/-! ### What every step keeps -/

section
variable {s t : State}

theorem State.Inv.latch (h : s.Inv) : s.latch.Inv where
  memory := h.memory
  cwai := h.cwai
  nmi := fun hpending => (latch_nmiPending_iff.1 hpending).elim h.nmi And.right

/-- A machine that runs meets the invariant whatever its PC and its CC. -/
theorem State.Inv.running (h : s.Inv) (pc : Word) : State.Inv { s with runState := .running, pc := pc } where
  memory := h.memory
  nmi := h.nmi
  cwai := nofun

theorem pushFrame_touches {f : Frame} (h : Bus.plain.pushFrame f s = .ok t) : Touches [.r16 .s] s t := by
  cases f with
  | entire => exact pushFrame_entire_touches h
  | short => exact Touches.trans ((Touches.refl _ s).withRest _ _ _ _) (pushShortState_pushed h).touches
  | stacked =>
    obtain rfl := Except.ok.inj h
    exact .refl _ _

/-- The entry of an interrupt moves no register but S. -/
theorem enterException_touches {f : Frame} {m : MaskUpdate} {ev : Event}
    (h : Bus.plain.enterException f m ev s = .ok t) : Touches [.r16 .s] s t := by
  obtain ⟨w, target, hw, -, rfl⟩ := enterException_ok.1 h
  exact (pushFrame_touches hw).withRest _ _ _ _

/-- The entry of an interrupt wakes the machine, moves no register but S, and leaves no NMI pending that was not. -/
theorem takeInterrupt_touches {k : Interrupt} (h : Bus.plain.takeInterrupt k s = .ok t) :
    ∃ pending, (pending = true → s.nmiPending = true) ∧
      Touches [.r16 .s] { s with runState := .running, nmiPending := pending } t := by
  cases k with
  | nmi => exact ⟨false, nofun, enterException_touches h⟩
  | firq | irq => exact ⟨s.nmiPending, id, enterException_touches h⟩

theorem takeInterrupt_keeps_inv {k : Interrupt} (h : s.Inv) (ht : Bus.plain.takeInterrupt k s = .ok t) : t.Inv := by
  obtain ⟨as, hstores⟩ := takeInterrupt_stores ht
  obtain ⟨pending, hpending, htouch⟩ := takeInterrupt_touches ht
  refine ⟨hstores.wf h.memory, fun hnmi => ?armed, fun hwait => ?awake⟩
  case armed =>
    rw [htouch.nmiPending] at hnmi
    rw [htouch.nmiArmed, h.nmi (hpending hnmi), Bool.true_or]
  case awake =>
    rw [htouch.runState] at hwait
    cases hwait

/-- CWAI alone starts the wait of `run_state`, and it has set E (R130). -/
theorem exec_sets_e {i : Instr} (hrun : s.runState = .running) (h : exec i s = .next t) (hwait : t.runState = .cwaiWait) :
    CC.get t.cc .e = true := by
  by_cases hcwai : ∃ m, i = .cwai m
  case pos =>
    obtain ⟨m, rfl⟩ := hcwai
    obtain ⟨w, hw, rfl⟩ := waitForInterrupt_ok.1 (finish_next.1 h)
    have hcc := pushFrame_entire_cc hw
    rw [hcc, CC.get_put, if_pos rfl]
  case neg =>
    obtain ⟨-, -, -, -, -, hsync, hother⟩ := hiddenStateFrame i s t h
    by_cases his : i = .sync
    case pos =>
      rw [hsync his] at hwait
      cases hwait
    case neg =>
      rw [hother (fun m hm => hcwai ⟨m, hm⟩) his, hrun] at hwait
      cases hwait

theorem exec_keeps_inv {i : Instr} (h : s.Inv) (hrun : s.runState = .running) (ht : exec i s = .next t) : t.Inv where
  memory := (exec_stores i s t ht).wf h.memory
  nmi := fun hpending => by
    have htouch := exec_touches i s t ht
    rw [htouch.nmiPending] at hpending
    rw [htouch.nmiArmed, h.nmi hpending, Bool.true_or]
  cwai := exec_sets_e hrun ht

end

/-- Settles O9: a turn of a wait, the entry of an interrupt and an instruction each keep the invariant. -/
theorem everyStepKeepsTheInvariant : Obligations.EveryStepKeepsTheInvariant := by
  intro s t h ht
  rcases step_next ht with hwait | ⟨k, u, hpoll, hentry⟩ | ⟨u, i, w, hpoll, hfetch, hexec⟩
  · rw [(poll_wait hwait).1]
    exact h.latch
  · obtain ⟨⟨rfl, -⟩ | ⟨rfl, -⟩, -⟩ := poll_take hpoll
    · exact takeInterrupt_keeps_inv h.latch hentry
    · exact takeInterrupt_keeps_inv (h.latch.running _) hentry
  · obtain ⟨rfl, -⟩ := poll_execute hpoll
    obtain ⟨n, -, rfl⟩ := fetchInstr_ok.1 hfetch
    exact exec_keeps_inv (h.latch.running _) rfl hexec

end Sys2Proof.Machine
end

section
/-! PROOFS. Reset (spec/70_reset_and_hazards.md R340): what the sequence writes, and the states that a reset inside a step
finds: during the fetch, between the bytes of a register list on its way to the stack, and inside the store of a word. -/

namespace Sys2Proof.Machine

/-! ### The reset sequence -/

/-- The reset sequence completes where its vector reads. -/
theorem resetSequence_completes {s : State} (h : s.NoHoles) :
    ∃ t, resetSequence s = .ok t ∧ readWord s 0xFFFE = .ok t.pc ∧
      t = { s with dp := 0, cc := s.cc ||| 0x50, nmiArmed := false, nmiPending := false, runState := .running,
                   pc := t.pc } := by
  obtain ⟨target, htarget⟩ := readWord_usable (h 0xFFFE) (h (0xFFFE + 1))
  refine ⟨_, resetSequence_ok.2 ⟨target, htarget, rfl⟩, htarget, ?_⟩
  rw [MaskUpdate.setIF_apply]

/-! ### Moments of a step -/

section
variable {s t u : State} {n : Nat}

theorem stateInside_of_wait (h : poll s = .wait t) : stateInside n s = .ok t := by
  rw [stateInside, h]

theorem stateInside_of_take {k : Interrupt} (h : poll s = .take k u) :
    stateInside n s = Counted.stateAt (Bus.counted.takeInterrupt k u) n := by
  rw [stateInside, h]

/-- A reset at a moment is the reset sequence on the state reached. -/
theorem resetDuring_of_stateInside (h : stateInside n s = .ok u) : resetDuring n s = finish (resetSequence u) := by
  rw [resetDuring, h]
  rfl

/-- A step that completes has reached a state at each moment, its result from some moment on. -/
theorem stateInside_of_step (h : step s = .next t) :
    (∀ n, ∃ u, stateInside n s = .ok u) ∧ ∃ k, ∀ n, k ≤ n → stateInside n s = .ok t := by
  rcases step_next h with hwait | ⟨k, u, hpoll, hentry⟩ | ⟨u, i, w, hpoll, hfetch, hexec⟩
  case inl => exact ⟨fun _ => ⟨t, stateInside_of_wait hwait⟩, 0, fun _ _ => stateInside_of_wait hwait⟩
  case inr.inl =>
    simp only [stateInside_of_take hpoll]
    exact (hentry ▸ agrees_takeInterrupt k u).stateAt
  case inr.inr =>
    obtain ⟨len, hdecode, hw⟩ := fetchInstr_ok.1 hfetch
    have hresult : Res.ofOutcome (exec i w) = .ok t := by rw [hexec]; rfl
    obtain ⟨hreached, k, hlate⟩ := (hresult ▸ agrees_perform i w).stateAt
    simp only [stateInside_execute hpoll hdecode hw]
    refine ⟨fun n => ?_, 2 * len + k, fun n hn => ?_⟩
    · split
      · exact ⟨_, rfl⟩
      · exact hreached _
    · rw [if_neg (by omega)]
      exact hlate _ (by omega)

/-- What decodes from a list of bytes decodes from a source that gives those bytes. -/
theorem decodeFrom_of_decode {ε : Type} {fetch : Nat → Except ε Byte} {undef : Undefined → ε} {bs : List Byte}
    {i : Instr} {len : Nat} (hbytes : ∀ k : Nat, ∀ b ∈ bs[k]?, fetch k = .ok b) (h : decode bs = .ok (i, len)) :
    decodeFrom fetch undef = .ok (i, len) := by
  obtain ⟨ops, rest, hspelled, rfl, rfl⟩ := decode_ok.1 h
  have hfetch : Fetches fetch 0 (ops ++ rest) := fetches_of_getElem fun k b hb => by rw [Nat.zero_add]; exact hbytes k b hb
  exact decodeFrom_ok.2 ⟨ops, hspelled, (fetches_append.1 hfetch).1, rfl⟩

/-- A running machine with no interrupt accepted spends two moments on each byte of the instruction at PC, in which PC alone
moves, and then the moments of its effect (R46, R55). -/
theorem stateInside_of_decode {bs : List Byte} {i : Instr} {len : Nat} (hrun : s.runState = .running) (hquiet : s.Quiet)
    (hbytes : ∀ k : Nat, ∀ b ∈ bs[k]?, readByte s (s.pc + BitVec.ofNat 16 k) = .ok b) (hdecode : decode bs = .ok (i, len)) :
    stateInside n s =
      if n < 2 * len then .ok { s with pc := s.pc + BitVec.ofNat 16 ((n + 1) / 2), irqIn := s.irqIn.tail }
      else insideInstr (n - 2 * len) i { s with pc := s.pc + BitVec.ofNat 16 len, irqIn := s.irqIn.tail } := by
  have hpoll : poll s = .execute { s with irqIn := s.irqIn.tail } := by
    rw [poll_of_quiet hquiet (by rw [hrun]; decide), if_neg (by rw [hrun]; decide)]
  exact stateInside_execute hpoll (decodeFrom_of_decode hbytes hdecode) rfl n

end

/-! ### Moments of an effect -/

section
variable {s t u : State} {n : Nat}

/-- An effect whose first part is cut is cut there. -/
theorem Counted.bind_error {α β : Type} {p : Counted α} {f : α → Counted β} {e : Halt} (h : p n = .error e) :
    (p >>= f) n = .error e := by
  change (p n >>= fun x => f x.1 x.2) = _
  rw [h]
  rfl

/-- The second part of an effect has the moments that the first part leaves. -/
theorem Counted.bind_ok {α β : Type} {p : Counted α} {f : α → Counted β} {v : α} {m : Nat} (h : p n = .ok (v, m)) :
    (p >>= f) n = f v m := by
  change (p n >>= fun x => f x.1 x.2) = _
  rw [h]
  rfl

theorem Counted.stateAt_of_reached {p : Counted State} (h : p n = .error (.reached u)) : p.stateAt n = .ok u := by
  simp only [Counted.stateAt, StateT.run, h]

/-! A write has a moment before it and a moment after it. -/

theorem counted_write_before (s : State) (a : Word) (v : Byte) : Bus.counted.write s a v 0 = .error (.reached s) := rfl

/-- Past the moment before it a write is done, with the moment after it to come. -/
theorem counted_write_passed {a : Word} {v : Byte} (h : writeByte s a v = .ok t) :
    Bus.counted.write s a v (n + 1) = Counted.moment t n >>= fun r => .ok (t, r.2) := by
  change (Counted.ofRes (writeByte s a v) >>= fun t => Counted.moment t >>= fun _ => Pure.pure t) n = _
  rw [h]
  rfl

theorem counted_write_after {a : Word} {v : Byte} (h : writeByte s a v = .ok t) :
    Bus.counted.write s a v 1 = .error (.reached t) :=
  counted_write_passed h

theorem counted_write_done {a : Word} {v : Byte} (h : writeByte s a v = .ok t) :
    Bus.counted.write s a v (n + 2) = .ok (t, n) :=
  counted_write_passed h

end

/-! ### Inside a push of a register list -/

section
variable {μ : Type → Type} [Monad μ] [LawfulMonad μ] (bus : Bus μ) (named : Bool) (r : StackReg) (s : State)

theorem Bus.pushByteIf_eq_foldrM (v : Byte) :
    bus.pushByteIf named r v s = (if named then [v] else []).foldrM (bus.push8 r) s := by
  cases named <;> simp [Bus.pushByteIf]

theorem Bus.pushWordIf_eq_foldrM (v : Word) :
    bus.pushWordIf named r v s = (if named then wordBytes v else []).foldrM (bus.push8 r) s := by
  cases named <;> simp [Bus.pushWordIf, Bus.push16, wordBytes]

/-- A register list is pushed byte by byte, its frame from the last byte to the first (R84, R185). -/
theorem Bus.pushList_eq_foldrM (l : RegList) : bus.pushList r l s = (frameBytes r l s).foldrM (bus.push8 r) s := by
  simp only [Bus.pushList, Bus.pushByteIf_eq_foldrM, Bus.pushWordIf_eq_foldrM, frameBytes, List.foldrM_append]

end

section
variable {r : StackReg} {bs : List Byte} {v : Byte} {s t u : State} {n : Nat}

/-- `u` is the state at moment `n` of a push of `bs` from `s`: the bytes written so far stand, and the pointer is at the
byte under way, which is decremented before it is written (R48). -/
structure PushReaches (r : StackReg) (bs : List Byte) (n : Nat) (s u : State) : Prop where
  state : u = { s.setSp r (s.sp r - BitVec.ofNat 16 (n / 2 + 1)) with mem := u.mem }
  stored : Stored (s.sp r - BitVec.ofNat 16 ((n + 1) / 2)) (bs.drop (bs.length - (n + 1) / 2)) s u

/-- A byte yet to be pushed changes nothing of the moments before it. -/
theorem PushReaches.cons (h : PushReaches r bs n s u) (hn : n < 2 * bs.length) : PushReaches r (v :: bs) n s u where
  state := h.state
  stored := by
    rw [List.length_cons, Nat.succ_sub (by omega), List.drop_succ_cons]
    exact h.stored

/-- Right before a byte is written the pointer has moved to it, and the bytes above it stand. -/
theorem Pushed.reaches_before (h : Pushed r bs s t) :
    PushReaches r (v :: bs) (2 * bs.length) s (t.setSp r (t.sp r - 1)) where
  state := by
    rw [show 2 * bs.length / 2 + 1 = bs.length + 1 by omega, sub_ofNat_succ, ← h.sp, h.state]
    cases r <;> rfl
  stored := by
    rw [show (2 * bs.length + 1) / 2 = bs.length by omega, List.length_cons, Nat.add_sub_cancel_left, List.drop_one,
      List.tail_cons]
    exact h.stored.congr rfl rfl (State.setSp_mem ..) (State.setSp_platform ..)

/-- Right after a byte is written it stands with the bytes above it. -/
theorem Pushed.reaches_after (h : Pushed r (v :: bs) s t) : PushReaches r (v :: bs) (2 * bs.length + 1) s t where
  state := by
    rw [show (2 * bs.length + 1) / 2 + 1 = (v :: bs).length by rw [List.length_cons]; omega]
    exact h.state
  stored := by
    rw [show (2 * bs.length + 1 + 1) / 2 = (v :: bs).length by rw [List.length_cons]; omega, Nat.sub_self]
    exact h.stored

/-- A push of bytes has two moments to a byte and then completes. -/
theorem counted_push_bytes (h : s.NoHoles) (hlen : bs.length < 65536) :
    (∀ n < 2 * bs.length, ∃ u, bs.foldrM (Bus.counted.push8 r) s n = .error (.reached u) ∧ PushReaches r bs n s u) ∧
    ∃ t, Pushed r bs s t ∧ ∀ n, bs.foldrM (Bus.counted.push8 r) s (2 * bs.length + n) = .ok (t, n) := by
  induction bs with
  | nil => exact ⟨fun n hn => absurd hn (Nat.not_lt_zero n), s, .nil r s, fun n => by rw [List.length_nil, Nat.zero_add]; rfl⟩
  | cons v bs ih =>
    rw [List.length_cons] at hlen ⊢
    obtain ⟨hreached, t, hpushed, hdone⟩ := ih (by omega)
    obtain ⟨w, hw⟩ := push8_usable ((h.congr hpushed.platform) (t.sp r - 1)) v
    have hall := hpushed.push8 (by omega) hw
    have hpush (m : Nat) : (v :: bs).foldrM (Bus.counted.push8 r) s (2 * bs.length + m) =
        Bus.counted.push8 r v t m := by
      rw [List.foldrM_cons]
      exact Counted.bind_ok (hdone m)
    constructor
    case left =>
      intro n hn
      by_cases hbelow : n < 2 * bs.length
      · obtain ⟨u, hu, hreaches⟩ := hreached n hbelow
        rw [List.foldrM_cons]
        exact ⟨u, Counted.bind_error hu, hreaches.cons hbelow⟩
      · obtain rfl | rfl : n = 2 * bs.length + 0 ∨ n = 2 * bs.length + 1 := by omega
        · exact ⟨_, (hpush 0).trans (counted_write_before _ _ _), hpushed.reaches_before⟩
        · exact ⟨w, (hpush 1).trans (counted_write_after hw), hall.reaches_after⟩
    case right =>
      refine ⟨w, hall, fun n => ?_⟩
      rw [show 2 * (bs.length + 1) + n = 2 * bs.length + (n + 2) by omega, hpush]
      exact counted_write_done hw

end

/-- At each moment before its end PSHS has reached a state of the push of its frame (R185). -/
theorem insideInstr_pshs (l : RegList) {s : State} {n : Nat} (h : s.NoHoles)
    (hn : n < 2 * (frameBytes .s l s).length) :
    ∃ u, insideInstr n (.pshs l) s = .ok u ∧ PushReaches .s (frameBytes .s l s) n s u := by
  have hlen := frameBytes_length_le .s l s
  obtain ⟨u, hu, hreaches⟩ := (counted_push_bytes (r := .s) h (by omega)).1 n hn
  refine ⟨u, Counted.stateAt_of_reached ?_, hreaches⟩
  rw [← hu, ← Bus.pushList_eq_foldrM]
  rfl

/-! ### Inside the store of a word -/

/-- Between the two bytes of a word the first one stands. -/
theorem counted_writeWord_between {s t : State} {a v : Word} {n : Nat} (h : writeByte s a (hiByte v) = .ok t)
    (hn : n ∈ [1, 2]) : Bus.counted.writeWord s a v n = .error (.reached t) := by
  obtain rfl | rfl : n = 1 ∨ n = 2 := by simpa using hn
  · exact Counted.bind_error (counted_write_after h)
  · exact (Counted.bind_ok (counted_write_done h)).trans (counted_write_before _ _ _)

/-- Between the two bytes of STD the first one stands, and CC is unwritten (R215). -/
theorem insideInstr_std {s t : State} {a : Word} {n : Nat} (h : writeByte s a s.a = .ok t) (hn : n ∈ [1, 2]) :
    insideInstr n (.std (.extended a)) s = .ok t := by
  rw [← hiByte_join s.a s.b] at h
  refine Counted.stateAt_of_reached ?_
  change (Bus.counted.writeWord s a s.d >>= fun w => Pure.pure { w with cc := CC.logic16 w.cc s.d }) n = _
  exact Counted.bind_error (counted_writeWord_between h hn)

end Sys2Proof.Machine

namespace Sys2Proof

open Machine

/-- Settles O60: the sequence itself, the moments of a step that completes, and the states inside a fetch, inside PSHS and
inside STD. -/
theorem resetSequence : Obligations.ResetSequence := by
  refine ⟨fun s h => resetSequence_completes h, fun s t h => ?step, fun s bs i len hrun hquiet hbytes hdecode n =>
    stateInside_of_decode hrun hquiet hbytes hdecode, fun l s n h hn => ?pshs, fun s a husable n hn => ?std⟩
  case step =>
    obtain ⟨hreached, hlate⟩ := stateInside_of_step h
    refine ⟨fun n => ?_, hlate⟩
    obtain ⟨u, hu⟩ := hreached n
    exact ⟨u, hu, resetDuring_of_stateInside hu⟩
  case pshs =>
    obtain ⟨u, hu, hreaches⟩ := insideInstr_pshs l h hn
    exact ⟨u, hu, hreaches.state, hreaches.stored⟩
  case std =>
    obtain ⟨u, hu⟩ := writeByte_usable (v := s.a) husable
    exact ⟨u, insideInstr_std hu hn, (writeByte_frame hu).1, writeByte_stored hu⟩

end Sys2Proof
end
